-- ==== Sys2Proof/Word.lean ====
section
/-! DEFINITION. The widths the block works in: bytes (00_scope.md R8) and the 14-bit packet count (R7). -/

namespace Sys2Proof

/-- A byte is 8 bits (R8). -/
abbrev Byte := BitVec 8

/-- The packet count, `SEQ_WIDTH` = 14 bits (R7). -/
abbrev Count := BitVec 14

end Sys2Proof
end

