-- ==== Sys2Proof/Syntax.lean ====
section
/-! DEFINITION. The twelve operations of 30_encoding.md R95, one constructor each, with the operand names of R95.
Numeric operands are unbounded non-negative integers (00_scope.md R12), so that validation has something to refuse. -/

namespace Sys2Proof

/-- The enumeration of R95: four packet-emitting commands, READ_BACK, the three setters, GET_COUNT, and the three
internal sub-operations. -/
inductive Instr where
  /-- WRITE_SYS_REG(address, value_byte_length, value), R162. -/
  | writeSysReg (address valueByteLength value : Nat)
  /-- READ_SYS_REG(address), R163. -/
  | readSysReg (address : Nat)
  /-- WRITE_ASIC_SPI_REGISTER(reg_addr, bit_length, value), R164. -/
  | writeAsicSpiRegister (regAddr bitLength value : Nat)
  /-- READ_ASIC_SPI_EX_REGISTER(reg_addr, bit_length), R165. -/
  | readAsicSpiExRegister (regAddr bitLength : Nat)
  /-- READ_BACK(byte_length), R200. -/
  | readBack (byteLength : Nat)
  /-- SET_SPI_FORMAT(v), R206. -/
  | setSpiFormat (v : Nat)
  /-- SET_ASIC_ID(v), R207. -/
  | setAsicId (v : Nat)
  /-- SET_TRACE(b), b 0 or 1, R208. -/
  | setTrace (b : Bool)
  /-- GET_COUNT(), R148. -/
  | getCount
  /-- ENCODE_HEADER(packet_type, data_length), internal, R120. -/
  | encodeHeader (packetType dataLength : Nat)
  /-- CURRENT(), internal, R140. -/
  | current
  /-- INCREMENT_AFTER_SEND(), internal, R141. -/
  | incrementAfterSend
deriving DecidableEq, Repr

/-- The nine operations the host may issue (R95, R230): the names a selector map can give a bit pattern to. -/
inductive HostOp where
  | writeSysReg | readSysReg | writeAsicSpiRegister | readAsicSpiExRegister
  | readBack | setSpiFormat | setAsicId | setTrace | getCount
deriving DecidableEq, Repr

/-- The operand lines of a physical command port (R267: "operation, operands"), used only by a request that comes as
a selector pattern. Log 10. -/
structure PortOperands where
  /-- `address` or `reg_addr`. -/
  address : Nat
  /-- `value_byte_length`, `bit_length` or `byte_length`. -/
  length : Nat
  /-- `value` or `v`. -/
  value : Nat
  /-- `b` of SET_TRACE. -/
  flag : Bool
deriving DecidableEq, Repr

end Sys2Proof
end

