-- ==== Sys2Proof/Config.lean ====
section
/-! DEFINITION. The constants of 00_scope.md R7 and the parameters of R6. -/

namespace Sys2Proof

/-- `VERSION`, 3 bits, constant 0 (R7, R25). -/
def Config.version : BitVec 3 := 0#3

/-- `SYSTEM_NUMBER`, 5 bits, constant 0 (R7, R25). -/
def Config.systemNumber : BitVec 5 := 0#5

/-- `SEQUENCER_FLAG`, 2 bits, constant 0 (R7, R25). -/
def Config.sequencerFlag : BitVec 2 := 0#2

/-- `RESERVED`, 32 bits, constant 0 (R7, R25). -/
def Config.reserved : BitVec 32 := 0#32

/-- `HEADER_BITS` (R7). -/
def Config.headerBits : Nat := 80

/-- `OPC_WRITE_SYS_REG` (R7, R84). -/
def Config.opcWriteSysReg : Byte := 0x10#8

/-- `OPC_READ_SYS_REG` (R7, R84). -/
def Config.opcReadSysReg : Byte := 0x11#8

/-- `OPC_READ_BACK`, receive-only (R7, R84, R89). -/
def Config.opcReadBack : Byte := 0x12#8

/-- `OPC_WRITE_ASIC_SPI_REGISTER` (R7, R84). -/
def Config.opcWriteAsicSpiRegister : Byte := 0xC2#8

/-- `OPC_READ_ASIC_SPI_EX_REGISTER` (R7, R84). -/
def Config.opcReadAsicSpiExRegister : Byte := 0xC3#8

/-- `WASIC_BITLEN_POLICY` (R6, R164; 92_eei_decisions.md D7). -/
inductive BitLengthPolicy where
  /-- `data_length` is 7 for every `bit_length`. -/
  | fixed1
  /-- The model gives the command no meaning unless `1 <= bit_length <= 8`. -/
  | refuseOutside1To8
deriving DecidableEq, Repr

/-- `TX_TIMEOUT_HOOK` (R6; 60_exceptions.md R239; D13). -/
inductive TimeoutHook where
  /-- A blocked transfer ends only by the transport's own answer. -/
  | absent
  /-- The environment may end a blocked transfer, reported as `TransportError`. -/
  | present
deriving DecidableEq, Repr

/-- The six parameters of R6. They are fixed for a run. -/
structure Params where
  /-- `ASIC_ID_INIT`. -/
  asicIdInit : Byte
  /-- `SPI_FORMAT_INIT`. -/
  spiFormatInit : Byte
  /-- `TRACE_INIT`. -/
  traceInit : Bool
  /-- `WASIC_BITLEN_POLICY`. -/
  bitLengthPolicy : BitLengthPolicy
  /-- `TX_TIMEOUT_HOOK`. -/
  timeoutHook : TimeoutHook
  /-- `CMD_SEL_ENCODING`: which bit pattern names which operation on a physical command port. -/
  selectorMap : List (HostOp × Nat)
deriving DecidableEq, Repr

/-- The default of each parameter (R6). `CMD_SEL_ENCODING` is OPEN and has no default: no pattern is assigned here
(DESIGN CHOICE, log 10). -/
def Config.defaults : Params where
  asicIdInit := 0x00#8
  spiFormatInit := 0x02#8
  traceInit := false
  bitLengthPolicy := .fixed1
  timeoutHook := .absent
  selectorMap := []

end Sys2Proof
end

