-- ==== Sys2Proof/WellFormed.lean ====
section
/-! DEFINITION. When an operation's operands fit the fields they fill: the table of 42_command_encoder.md R166, the
setters' check (43_session_ops.md R206, R207) and the operand ranges of ENCODE_HEADER (40_header_codec.md R120).
The bounds are written out as numbers here; the machine's own validation is `Machine.operandsFit`. -/

namespace Sys2Proof

/-- The operands fit their declared widths. -/
def Instr.wellFormed : Instr → Bool
  | .writeSysReg address n value => address < 65536 && n < 256 && value < 256 ^ n
  | .readSysReg address => address < 65536
  | .writeAsicSpiRegister regAddr bitLength value => regAddr < 65536 && bitLength < 65536 && value < 256
  | .readAsicSpiExRegister regAddr bitLength => regAddr < 65536 && bitLength < 65536
  | .readBack _ => true
  | .setSpiFormat v => v < 256
  | .setAsicId v => v < 256
  | .setTrace _ => true
  | .getCount => true
  | .encodeHeader packetType dataLength => packetType < 256 && dataLength < 65536
  | .current => true
  | .incrementAfterSend => true

end Sys2Proof
end

