-- ==== Sys2Proof/Decode.lean ====
section
/-! DEFINITION. The wire format read and written: byte order (00_scope.md R10), the header and its parse
(30_encoding.md R81, R82, R94), the four packet formats (R84 to R91), a decoder that is total on any bytes and rejects
by name, and after it the encoder. The encoding of this hardware is the wire format of the packets it emits; seven of
the twelve operations put no bits on the wire and have none (log 18). -/

namespace Sys2Proof

/-! ### Byte order -/

/-- `be_N(v)` of R10: the N-byte big-endian form of v, byte i being `v[8(N-i)-1 : 8(N-i-1)]`. -/
def be : Nat → Nat → List Byte
  | 0, _ => []
  | n + 1, v => BitVec.ofNat 8 (v / 2 ^ (8 * n)) :: be n v

/-- The unsigned integer a big-endian byte sequence stands for, given the number read so far. -/
def beNatFrom : Nat → List Byte → Nat
  | acc, [] => acc
  | acc, b :: bs => beNatFrom (acc * 256 + b.toNat) bs

/-- The inverse of `be`: the first byte is the most significant (R10, R53). -/
def beNat (bs : List Byte) : Nat := beNatFrom 0 bs

/-- The n-byte form of v with its least significant byte first: only the table words number bytes so (log 17). -/
def le : Nat → Nat → List Byte
  | 0, _ => []
  | n + 1, v => BitVec.ofNat 8 v :: le n (v / 256)

/-! ### The header, read -/

/-- ProtocolHeader: the seven fields of R81. -/
structure Header where
  version : BitVec 3
  systemNumber : BitVec 5
  packetType : BitVec 8
  sequencerFlag : BitVec 2
  packetCount : BitVec 14
  reserved : BitVec 32
  dataLength : BitVec 16
deriving DecidableEq, Repr

/-- The header fields of the 80-bit value `H`, at the bit positions of R81. -/
def headerOfBits (h : BitVec 80) : Header where
  version := h.extractLsb' 77 3
  systemNumber := h.extractLsb' 72 5
  packetType := h.extractLsb' 64 8
  sequencerFlag := h.extractLsb' 62 2
  packetCount := h.extractLsb' 48 14
  reserved := h.extractLsb' 16 32
  dataLength := h.extractLsb' 0 16

/-- `DECODE_HEADER` of R94, defined on exactly 10 bytes. -/
def decodeHeader (bs : List Byte) : Option Header :=
  if bs.length = 10 then some (headerOfBits (BitVec.ofNat 80 (beNat bs))) else none

/-- The four constant fields hold 0, as every header the block emits does (R83). -/
def Header.constantsZero (h : Header) : Bool :=
  h.version == Config.version && h.systemNumber == Config.systemNumber
    && h.sequencerFlag == Config.sequencerFlag && h.reserved == Config.reserved

/-! ### The decoder -/

/-- Why bytes are not the encoding of an operation. -/
inductive Reject where
  /-- Fewer than the 10 bytes of a header. -/
  | shortHeader
  /-- A constant field is not 0: no operation emits it and it has no meaning (R83). -/
  | nonzeroConstant
  /-- Packet type 0x12, which has no payload format (R89). -/
  | receiveOnlyType
  /-- One of the 251 unassigned packet types (R92). -/
  | unassignedType
  /-- Fewer bytes follow the header than its `data_length` says. -/
  | shortPayload
  /-- The payload's length is not the one its type and length byte call for (R63, R90). -/
  | lengthMismatch
deriving DecidableEq, Repr

/-- What a packet tells: the operation, the count in its header, and the configuration bytes where it carries them. -/
structure Decoded where
  instr : Instr
  count : Count
  config : Option (Byte × Byte)
deriving DecidableEq, Repr

/-- The packet types with a payload format (R84), each of the others rejected under its name. -/
def checkType (t : Byte) : Except Reject Unit :=
  if t = Config.opcWriteSysReg ∨ t = Config.opcReadSysReg ∨ t = Config.opcWriteAsicSpiRegister
      ∨ t = Config.opcReadAsicSpiExRegister then .ok ()
  else if t = Config.opcReadBack then .error .receiveOnlyType
  else .error .unassignedType

/-- Payload of WRITE_SYS_REG (R85). -/
def decodeWriteSysReg : List Byte → Option Instr
  | a1 :: a0 :: n :: vs =>
    if vs.length = n.toNat then some (.writeSysReg (beNat [a1, a0]) n.toNat (beNat vs)) else none
  | _ => none

/-- Payload of READ_SYS_REG (R86). -/
def decodeReadSysReg : List Byte → Option Instr
  | [a1, a0] => some (.readSysReg (beNat [a1, a0]))
  | _ => none

/-- Payload of WRITE_ASIC_SPI_REGISTER (R87), with the two configuration bytes. -/
def decodeWriteAsic : List Byte → Option (Instr × Byte × Byte)
  | [asicId, spiFormat, r1, r0, b1, b0, v] =>
    some (.writeAsicSpiRegister (beNat [r1, r0]) (beNat [b1, b0]) v.toNat, asicId, spiFormat)
  | _ => none

/-- Payload of READ_ASIC_SPI_EX_REGISTER (R88), with the two configuration bytes. -/
def decodeReadAsic : List Byte → Option (Instr × Byte × Byte)
  | [asicId, spiFormat, r1, r0, b1, b0] =>
    some (.readAsicSpiExRegister (beNat [r1, r0]) (beNat [b1, b0]), asicId, spiFormat)
  | _ => none

/-- The payload of a packet whose type has a format, read by its type (R85 to R88). -/
def decodePayload (t : Byte) (payload : List Byte) : Option (Instr × Option (Byte × Byte)) :=
  if t = Config.opcWriteSysReg then (decodeWriteSysReg payload).map fun i => (i, none)
  else if t = Config.opcReadSysReg then (decodeReadSysReg payload).map fun i => (i, none)
  else if t = Config.opcWriteAsicSpiRegister then (decodeWriteAsic payload).map fun p => (p.1, some p.2)
  else (decodeReadAsic payload).map fun p => (p.1, some p.2)

/-- One packet off the front of a byte sequence, and the bytes after it: read 10 bytes, take `data_length` from them,
read that many more (R63, R93). -/
def decodePacket (bs : List Byte) : Except Reject (Decoded × List Byte) :=
  match decodeHeader (bs.take 10) with
  | none => .error .shortHeader
  | some h =>
    if h.constantsZero then
      match checkType h.packetType with
      | .error e => .error e
      | .ok _ =>
        if (bs.drop 10).length < h.dataLength.toNat then .error .shortPayload
        else
          match decodePayload h.packetType ((bs.drop 10).take h.dataLength.toNat) with
          | none => .error .lengthMismatch
          | some (i, config) => .ok (⟨i, h.packetCount, config⟩, (bs.drop 10).drop h.dataLength.toNat)
    else .error .nonzeroConstant

/-- A bare header, the result of ENCODE_HEADER (R120): any packet type, assigned or not (R92). -/
def decodeBareHeader (bs : List Byte) : Except Reject (Decoded × List Byte) :=
  match decodeHeader bs with
  | none => .error .shortHeader
  | some h =>
    if h.constantsZero then
      .ok (⟨.encodeHeader h.packetType.toNat h.dataLength.toNat, h.packetCount, none⟩, [])
    else .error .nonzeroConstant

/-- The decoder. Exactly 10 bytes are a bare header, since every packet has at least 12 (R57); anything else is read
as a packet. -/
def decode (bs : List Byte) : Except Reject (Decoded × List Byte) :=
  if bs.length = 10 then decodeBareHeader bs else decodePacket bs

/-- A byte sequence split into the packets it is made of, at most `fuel` of them (R63); none where some part of it is
no packet. -/
def splitPackets : Nat → List Byte → Option (List Decoded)
  | _, [] => some []
  | 0, _ :: _ => none
  | fuel + 1, b :: bs =>
    match decodePacket (b :: bs) with
    | .error _ => none
    | .ok (d, rest) => (splitPackets fuel rest).map fun ds => d :: ds

/-! ### The words of the opcode table -/

/-- The longest payload (R97). -/
def maxPayload : Nat := 258

/-- The bytes of a table word: the low 80 bits are the header value `H` of R81, sent most significant byte first
(the table's "leftmost character is header bit 79, sent first"); each byte above them is a payload byte, in order, as
many of them as the header's `data_length` calls for. Log 17. -/
def tableBytes (w : Nat) : List Byte := be 10 (w % 2 ^ 80) ++ le (min maxPayload (w % 2 ^ 16)) (w / 2 ^ 80)

/-- The instruction the decoder reads from a table word: a packet where the type is one of the four emitted ones, and
for every other type the bare header of the ENCODE_HEADER row. The rows without an encoding have no word. -/
def decodeTableWord (nbits w : Nat) : Option Instr :=
  if nbits < 80 then none
  else
    match decodePacket (tableBytes w) with
    | .ok (d, _) => some d.instr
    | .error .unassignedType => (decode (be 10 (w % 2 ^ 80))).toOption.map fun p => p.1.instr
    | .error .receiveOnlyType => (decode (be 10 (w % 2 ^ 80))).toOption.map fun p => p.1.instr
    | .error _ => none

/-! ### The encoder -/

/-- The implicit operands of an encoding: the registers a packet's bytes are taken from (R81, R87, R88). -/
structure Implicit where
  seq : Count
  asicId : Byte
  spiFormat : Byte
deriving DecidableEq, Repr

/-- The ten header bytes, byte by byte as R82 lists them. -/
def headerBytes (packetType : Byte) (count : Count) (dataLength : BitVec 16) : List Byte :=
  [ Config.version ++ Config.systemNumber,
    packetType,
    Config.sequencerFlag ++ count.extractLsb' 8 6,
    count.extractLsb' 0 8,
    Config.reserved.extractLsb' 24 8,
    Config.reserved.extractLsb' 16 8,
    Config.reserved.extractLsb' 8 8,
    Config.reserved.extractLsb' 0 8,
    dataLength.extractLsb' 8 8,
    dataLength.extractLsb' 0 8 ]

/-- The encoding of an operation, from the tables of R84 to R90: opcode, `data_length` and payload of the four
commands, the bare header for ENCODE_HEADER, and nothing for an operation that puts no bits on the wire. -/
def encode (x : Implicit) : Instr → List Byte
  | .writeSysReg address n value =>
    headerBytes 0x10#8 x.seq (BitVec.ofNat 16 (3 + n)) ++ (be 2 address ++ BitVec.ofNat 8 n :: be n value)
  | .readSysReg address => headerBytes 0x11#8 x.seq 2#16 ++ be 2 address
  | .writeAsicSpiRegister regAddr bitLength value =>
    headerBytes 0xC2#8 x.seq 7#16
      ++ (x.asicId :: x.spiFormat :: (be 2 regAddr ++ be 2 bitLength ++ [BitVec.ofNat 8 value]))
  | .readAsicSpiExRegister regAddr bitLength =>
    headerBytes 0xC3#8 x.seq 6#16 ++ (x.asicId :: x.spiFormat :: (be 2 regAddr ++ be 2 bitLength))
  | .encodeHeader packetType dataLength =>
    headerBytes (BitVec.ofNat 8 packetType) x.seq (BitVec.ofNat 16 dataLength)
  | .readBack _ => []
  | .setSpiFormat _ => []
  | .setAsicId _ => []
  | .setTrace _ => []
  | .getCount => []
  | .current => []
  | .incrementAfterSend => []

/-- The operation emits a packet (R95, "host command, emits a packet"). -/
def Instr.emitsPacket : Instr → Bool
  | .writeSysReg _ _ _ => true
  | .readSysReg _ => true
  | .writeAsicSpiRegister _ _ _ => true
  | .readAsicSpiExRegister _ _ => true
  | .readBack _ => false
  | .setSpiFormat _ => false
  | .setAsicId _ => false
  | .setTrace _ => false
  | .getCount => false
  | .encodeHeader _ _ => false
  | .current => false
  | .incrementAfterSend => false

/-- The number of bytes of an operation's encoding (R97; 10 for a bare header, R126; 0 where there is none). -/
def Instr.encodedLength : Instr → Nat
  | .writeSysReg _ n _ => 13 + n
  | .readSysReg _ => 12
  | .writeAsicSpiRegister _ _ _ => 17
  | .readAsicSpiExRegister _ _ => 16
  | .encodeHeader _ _ => 10
  | .readBack _ => 0
  | .setSpiFormat _ => 0
  | .setAsicId _ => 0
  | .setTrace _ => 0
  | .getCount => 0
  | .current => 0
  | .incrementAfterSend => 0

/-- The operation is one of the three sub-operations the host cannot call (R95, R230). -/
def Instr.isInternal : Instr → Bool
  | .encodeHeader _ _ => true
  | .current => true
  | .incrementAfterSend => true
  | .writeSysReg _ _ _ => false
  | .readSysReg _ => false
  | .writeAsicSpiRegister _ _ _ => false
  | .readAsicSpiExRegister _ _ => false
  | .readBack _ => false
  | .setSpiFormat _ => false
  | .setAsicId _ => false
  | .setTrace _ => false
  | .getCount => false

end Sys2Proof
end

