-- ==== Sys2Proof/Machine/Operands.lean ====
section
/-! DEFINITION. The width checks of the operands (00_scope.md R11 `fits`; 42_command_encoder.md R166;
43_session_ops.md R206, R207) and the operand lines of a physical command port (30_encoding.md R92, R98). -/

namespace Sys2Proof.Machine

/-- `fits(v, n)` of R11: `0 <= v < 2^n` on an unbounded non-negative integer. -/
def fits (v n : Nat) : Bool := decide (v < 2 ^ n)

/-- Step 1 of the contract (R160, R166) and the setters' check (R206, R207): every operand fits the width of the field
it fills. The operands of ENCODE_HEADER are checked by the header encoder itself (40_header_codec.md R125). -/
def operandsFit : Instr → Bool
  | .writeSysReg address n value => fits address 16 && fits n 8 && fits value (8 * n)
  | .readSysReg address => fits address 16
  | .writeAsicSpiRegister regAddr bitLength value => fits regAddr 16 && fits bitLength 16 && fits value 8
  | .readAsicSpiExRegister regAddr bitLength => fits regAddr 16 && fits bitLength 16
  | .setSpiFormat v => fits v 8
  | .setAsicId v => fits v 8
  | .readBack _ => true
  | .setTrace _ => true
  | .getCount => true
  | .encodeHeader _ _ => true
  | .current => true
  | .incrementAfterSend => true

/-- `WASIC_BITLEN_POLICY = refuse_outside_1_8` and not `1 <= bit_length <= 8` (R164). -/
def bitLengthRefused (policy : BitLengthPolicy) (bitLength : Nat) : Bool :=
  match policy with
  | .fixed1 => false
  | .refuseOutside1To8 => !(decide (1 ≤ bitLength) && decide (bitLength ≤ 8))

/-- The operation a bit pattern names under `CMD_SEL_ENCODING`, or none for an unassigned pattern (R92). -/
def selectedOp (selectorMap : List (HostOp × Nat)) (pattern : Nat) : Option HostOp :=
  match selectorMap with
  | [] => none
  | (op, p) :: rest => if p = pattern then some op else selectedOp rest pattern

/-- The operation with its operands taken from the command port's lines. -/
def portInstr (op : HostOp) (x : PortOperands) : Instr :=
  match op with
  | .writeSysReg => .writeSysReg x.address x.length x.value
  | .readSysReg => .readSysReg x.address
  | .writeAsicSpiRegister => .writeAsicSpiRegister x.address x.length x.value
  | .readAsicSpiExRegister => .readAsicSpiExRegister x.address x.length
  | .readBack => .readBack x.length
  | .setSpiFormat => .setSpiFormat x.value
  | .setAsicId => .setAsicId x.value
  | .setTrace => .setTrace x.flag
  | .getCount => .getCount

end Sys2Proof.Machine
end

