-- ==== Sys2Proof/Machine/State.lean ====
section
/-! DEFINITION. The state of the machine: the four registers of 10_state.md R20, the environment's streams and link
(R32), the operation in progress (60_exceptions.md R238), and the model's own record of the inputs still to come and
the results already returned. The block has no program counter, flags, memory, modes or interrupts (R27, R28, R33,
60_exceptions.md R228, R230). -/

namespace Sys2Proof.Machine

/-- The three kinds of error (60_exceptions.md R220). An error carries its kind and nothing else (R237). -/
inductive ErrorKind where
  /-- A caller-supplied value does not fit its field (R222). -/
  | encoding
  /-- Internal invariant violation: a defect (R221). -/
  | framing
  /-- Connection-level failure (R223). -/
  | transport
deriving DecidableEq, Repr

/-- The value returned with status OK (00_scope.md R13: "a value (possibly none)"). -/
inductive Value where
  /-- No value: the four commands, the setters, INCREMENT_AFTER_SEND. -/
  | nothing
  /-- Bytes: READ_BACK (R200), ENCODE_HEADER (R120). -/
  | bytes (bs : List Byte)
  /-- The counter widened to 16 bits: GET_COUNT (R148), CURRENT (R140). -/
  | count (c : BitVec 16)
deriving DecidableEq, Repr

/-- The one result of an operation (R13). -/
inductive Result where
  | ok (v : Value)
  | error (e : ErrorKind)
deriving DecidableEq, Repr

/-- Whether the connection still exists (10_state.md R32). -/
inductive Link where
  | opened
  | closed
deriving DecidableEq, Repr

/-- One move of the environment: the transport's or the device's choice, a free input of the step (R14, R32). Log 1. -/
inductive EnvMove where
  /-- The device's bytes arrive in the receive stream (R32). -/
  | deliver (bs : List Byte)
  /-- The connection ends, for good (R32, 20_memory.md R67). -/
  | close
  /-- The transport has sent the whole packet (R51). -/
  | sendOk
  /-- The send failed with k bytes of the packet on the wire (R65). -/
  | sendFail (k : Nat)
  /-- The timeout hook ends the blocked transfer (60_exceptions.md R239); k is the draw of R65 where it is a send. -/
  | cancel (k : Nat)
deriving DecidableEq, Repr

/-- One request at the block's command channel. -/
inductive Request where
  /-- The host issues an operation by name (30_encoding.md R95). -/
  | host (i : Instr)
  /-- The command mux issues a sub-operation (R95: "internal sub-operation"). No host request is of this kind. Log 13. -/
  | mux (i : Instr)
  /-- The host issues an operation by a bit pattern on a physical command port (R92, R98). Log 10. -/
  | selected (pattern : Nat) (operands : PortOperands)
  /-- The reset event (70_reset_and_hazards.md R260). -/
  | reset
deriving DecidableEq, Repr

/-- The machine stops with a fault: there is none. The spec gives no condition that stops the block; every error is
the result of an operation, after which the block accepts the next one (60_exceptions.md R226, R227). Log 12. -/
inductive Fault where
deriving DecidableEq, Repr

/-- Why the model gives a step no meaning. -/
inductive Refusal where
  /-- The host's: an instruction whose arm in `exec` has no meaning. No arm raises it. Safe: nothing is claimed. -/
  | notModelled (mnemonic : String)
  /-- Raised by WRITE_ASIC_SPI_REGISTER under the parameter value `refuse_outside_1_8` when `bit_length` is not 1 to 8:
  42_command_encoder.md R164, "refuse -- the model gives the command no meaning". Never raised under the default
  parameters. Safe: nothing is claimed of the command there. -/
  | bitLengthOutside1To8
  /-- Raised by `step` where a host request names an internal sub-operation: 70_reset_and_hazards.md R269, "A model
  gives these no step". No meaning raises it. It errs toward proving if a real host does it (R269; log 13): unsafe. -/
  | internalIssuedByHost
deriving DecidableEq, Repr

/-- The whole state. -/
structure State where
  /-- SEQ, the sequence counter (R21). -/
  seq : Count
  /-- ASIC_ID (R22). -/
  asicId : Byte
  /-- SPI_FORMAT (R23). -/
  spiFormat : Byte
  /-- TRACE (R24). -/
  trace : Bool
  /-- The operation in progress, which the block is blocked on (R238); none when the block is idle. -/
  busy : Option Instr
  /-- All bytes the transport has accepted since the connection opened, in order (R32). -/
  wire : List Byte
  /-- The bytes the device has sent that READ_BACK has not taken, in arrival order (R32). -/
  rx : List Byte
  /-- The `close` marker stands at the end of `rx` (R32). -/
  rxClose : Bool
  /-- The connection (R32). -/
  link : Link
  /-- MODEL'S OWN. The environment's moves still to come, in order. Log 1. -/
  env : List EnvMove
  /-- MODEL'S OWN. The requests made and not yet accepted, in issue order (R59). Log 2. -/
  port : List Request
  /-- MODEL'S OWN. The results returned so far, in order (R270). Log 4. -/
  results : List Result
  /-- MODEL'S OWN. The parameters of R6, fixed for a run. Log 7. -/
  params : Params
deriving DecidableEq, Repr

/-- The machine right after reset (R37, R261), with the parameters `p`. Reset does not touch the environment; the
streams empty and the link open are the premise of 70_reset_and_hazards.md R262 (log 6). -/
def State.resetWith (p : Params) : State where
  seq := 0#14
  asicId := p.asicIdInit
  spiFormat := p.spiFormatInit
  trace := p.traceInit
  busy := none
  wire := []
  rx := []
  rxClose := false
  link := .opened
  env := []
  port := []
  results := []
  params := p

/-- The machine right after reset, with the default parameters (R37: SEQ = 0, ASIC_ID = 0x00, SPI_FORMAT = 0x02,
TRACE = 0). -/
def State.reset : State := State.resetWith Config.defaults

end Sys2Proof.Machine
end

