-- ==== Sys2Proof/Machine/Ops.lean ====
section
/-! DEFINITION. The operations the meanings share: the registers' accessors, the end of an operation (OK, an error,
or still blocked), the environment's moves, the two transport primitives (20_memory.md R51, R52), the header encoder
(40_header_codec.md R120), the counter (41_sequence_counter.md R140, R141), SEND_COMMAND (42_command_encoder.md R160)
and the reset event (10_state.md R37). -/

namespace Sys2Proof.Machine

/-! ### Writes of the registers (R11, `REG <- v`) -/

/-- `SEQ <- c`. -/
def writeSeq (c : Count) (s : State) : State := { s with seq := c }

/-- `ASIC_ID <- b`. -/
def writeAsicId (b : Byte) (s : State) : State := { s with asicId := b }

/-- `SPI_FORMAT <- b`. -/
def writeSpiFormat (b : Byte) (s : State) : State := { s with spiFormat := b }

/-- `TRACE <- b`. -/
def writeTrace (b : Bool) (s : State) : State := { s with trace := b }

/-! ### How an operation ends (R13) -/

/-- `return v`: the operation ends with OK, and the block is idle. -/
def finish (v : Value) (s : State) : State :=
  { s with busy := none, results := s.results ++ [Result.ok v] }

/-- `raise <Error>`: entry of an error (60_exceptions.md R226). It saves nothing, switches no mode and transfers
control nowhere: the operation ends, the host receives the kind, and the block is idle with its registers as they are.
There is no return from an error (R227). -/
def raise (e : ErrorKind) (s : State) : State :=
  { s with busy := none, results := s.results ++ [Result.error e] }

/-- The requests that are still to be accepted after one is taken. -/
def setPort (rs : List Request) (s : State) : State := { s with port := rs }

/-- The operation has not ended: the block waits for the environment and accepts no other operation (R238). -/
def hold (i : Instr) (s : State) : State := { s with busy := some i }

/-! ### The environment's moves (R32, R67) -/

/-- The moves that are still to come after one is taken. -/
def setEnv (es : List EnvMove) (s : State) : State := { s with env := es }

/-- Bytes arrive at the end of `rx`; none after the `close` marker (R67(a)). Log 14. -/
def deliver (bs : List Byte) (s : State) : State :=
  { s with rx := if s.rxClose then s.rx else s.rx ++ bs }

/-- The link closes for good and the `close` marker is appended to `rx` (R67(a)). -/
def closeLink (s : State) : State := { s with link := .closed, rxClose := true }

/-- Bytes the transport has accepted: `wire <- wire ++ p` (R51). -/
def accepted (p : List Byte) (s : State) : State := { s with wire := s.wire ++ p }

/-- `rx` as a receive leaves it. -/
def setRx (bs : List Byte) (s : State) : State := { s with rx := bs }

/-- The bytes of p on the wire after a failed send, for the environment's draw k: always fewer than all of them
(R65). Log 11. -/
def strictPrefix (k : Nat) (p : List Byte) : List Byte := p.take (min k (p.length - 1))

/-- The environment's next move when no transfer waits for it: bytes arrive or the link closes; an answer to no send
is no event (log 14). -/
def idleMove (s : State) : State :=
  match s.env with
  | [] => s
  | .deliver bs :: es => deliver bs (setEnv es s)
  | .close :: es => closeLink (setEnv es s)
  | .sendOk :: es => setEnv es s
  | .sendFail _ :: es => setEnv es s
  | .cancel _ :: es => setEnv es s

/-! ### `TxSendAll` (R51, R65, R67) -/

/-- What a send comes to. -/
inductive TxOutcome where
  | ok (s : State)
  | fail (s : State)
  /-- The environment has given no answer yet (R238). -/
  | blocked (s : State)
deriving DecidableEq, Repr

/-- A send of p on an open link, waiting through the environment's moves for the transport's answer. A close met
while waiting fails the send at once (R67(c); log 15). -/
def txWait (p : List Byte) : List EnvMove → State → TxOutcome
  | [], s => .blocked s
  | .deliver bs :: es, s => txWait p es (deliver bs (setEnv es s))
  | .close :: es, s => .fail (closeLink (setEnv es s))
  | .sendOk :: es, s => .ok (accepted p (setEnv es s))
  | .sendFail k :: es, s => .fail (accepted (strictPrefix k p) (setEnv es s))
  | .cancel k :: es, s =>
    match s.params.timeoutHook with
    | .present => .fail (accepted (strictPrefix k p) (setEnv es s))
    | .absent => txWait p es (setEnv es s)

/-- `TxSendAll(p)`. On a closed link it fails at once and adds nothing to `wire` (R67(c)). -/
def txSendAll (p : List Byte) (s : State) : TxOutcome :=
  match s.link with
  | .closed => .fail s
  | .opened => txWait p s.env s

/-! ### `RxRecvExact` (R52) -/

/-- What a receive comes to. -/
inductive RxOutcome where
  | bytes (bs : List Byte) (s : State)
  | closed (s : State)
  /-- Too few bytes and no close yet (R238). -/
  | blocked (s : State)
deriving DecidableEq, Repr

/-- A receive of n bytes, waiting through the environment's moves until enough bytes are there or the stream closes.
On a close the bytes that were there are consumed (R52, 43_session_ops.md R202). -/
def rxWait (n : Nat) : List EnvMove → State → RxOutcome
  | [], s =>
    if n ≤ s.rx.length then .bytes (s.rx.take n) (setRx (s.rx.drop n) s)
    else if s.rxClose then .closed (setRx [] s)
    else .blocked s
  | m :: es, s =>
    if n ≤ s.rx.length then .bytes (s.rx.take n) (setRx (s.rx.drop n) s)
    else if s.rxClose then .closed (setRx [] s)
    else
      match m with
      | .deliver bs => rxWait n es (deliver bs (setEnv es s))
      | .close => rxWait n es (closeLink (setEnv es s))
      | .sendOk => rxWait n es (setEnv es s)
      | .sendFail _ => rxWait n es (setEnv es s)
      | .cancel _ =>
        match s.params.timeoutHook with
        | .present => .closed (setRx [] (setEnv es s))
        | .absent => rxWait n es (setEnv es s)

/-- `RxRecvExact(n)` (R52). -/
def rxRecvExact (n : Nat) (s : State) : RxOutcome := rxWait n s.env s

/-- The end of READ_BACK(n), once the receive has come to something (R200, R202, R210). -/
def endReceive (n : Nat) : RxOutcome → State
  | .bytes bs s => finish (.bytes bs) s
  | .closed s => raise .transport s
  | .blocked s => hold (.readBack n) s

/-! ### The counter (R140, R141) -/

/-- `CURRENT()`: `zext_16(SEQ)` (R140). -/
def currentCount (s : State) : BitVec 16 := s.seq.setWidth 16

/-- `INCREMENT_AFTER_SEND()`: `SEQ <- (SEQ + 1) mod 16384` (R141). -/
def advanceSeq (s : State) : State := writeSeq (s.seq + 1#14) s

/-! ### The header encoder (R120) -/

/-- A bit field: its width and its bits. -/
abbrev Field := (w : Nat) × BitVec w

/-- Concatenation of fields, the first most significant; the width of the result is the sum of the widths (R9). -/
def concatFields : List Field → Field
  | [] => ⟨0, 0#0⟩
  | f :: fs => ⟨f.1 + (concatFields fs).1, f.2 ++ (concatFields fs).2⟩

/-- The seven header fields in their fixed order (R121). -/
def headerFields (packetType : BitVec 8) (count : BitVec 14) (dataLength : BitVec 16) : List Field :=
  [⟨3, Config.version⟩, ⟨5, Config.systemNumber⟩, ⟨8, packetType⟩, ⟨2, Config.sequencerFlag⟩, ⟨14, count⟩,
    ⟨32, Config.reserved⟩, ⟨16, dataLength⟩]

/-- `ENCODE_HEADER(packet_type, data_length)` of R120: the ten header bytes, or `FramingError` for an operand out of
range (R125) or a header that is not 80 bits (R123). It reads SEQ once and writes nothing (R122, R124). -/
def buildHeader (packetType dataLength : Nat) (s : State) : Except ErrorKind (List Byte) :=
  if fits packetType 8 && fits dataLength 16 then
    let count : BitVec 14 := (currentCount s).setWidth 14
    let h := concatFields (headerFields (BitVec.ofNat 8 packetType) count (BitVec.ofNat 16 dataLength))
    if h.1 = Config.headerBits then .ok (be 10 h.2.toNat) else .error .framing
  else .error .framing

/-! ### SEND_COMMAND (R160) -/

/-- Steps 4 and 5 of the contract for the command i, once the transport has answered or not: SEQ advances only after
the whole packet was sent (R142), and a failed send raises `TransportError` with the registers as they were (R169). -/
def endSend (i : Instr) : TxOutcome → State
  | .ok s => finish .nothing (advanceSeq s)
  | .fail s => raise .transport s
  | .blocked s => hold i s

/-- Steps 2 to 5 of the contract, for the command i with its opcode and its payload. -/
def sendCommand (i : Instr) (opcode : Byte) (payload : List Byte) (s : State) : State :=
  match buildHeader opcode.toNat payload.length s with
  | .error e => raise e s
  | .ok header =>
    if (decodeHeader header).map (fun h => h.dataLength.toNat) = some payload.length then
      endSend i (txSendAll (header ++ payload) s)
    else raise .framing s

/-! ### The reset event (R37, R260, R262) -/

/-- Reset writes the four registers and nothing else: not `wire`, `rx` or `link`. -/
def resetRegisters (s : State) : State :=
  { s with seq := 0#14, asicId := s.params.asicIdInit, spiFormat := s.params.spiFormatInit, trace := s.params.traceInit }

end Sys2Proof.Machine
end

