-- ==== Sys2Proof/Machine/Command.lean ====
section
/-! DEFINITION. The command framing mux: the four packet-emitting commands, each its width checks, its opcode and its
payload over SEND_COMMAND (42_command_encoder.md R160 to R166). -/

namespace Sys2Proof.Machine

/-- WRITE_SYS_REG(address, value_byte_length, value), R162. -/
def execWriteSysReg (address n value : Nat) (s : State) : Host.Outcome State Fault Refusal :=
  if operandsFit (.writeSysReg address n value) then
    let payload := be 2 address ++ [BitVec.ofNat 8 n] ++ be n value
    .next (sendCommand (.writeSysReg address n value) Config.opcWriteSysReg payload s)
  else .next (raise .encoding s)

/-- READ_SYS_REG(address), R163. -/
def execReadSysReg (address : Nat) (s : State) : Host.Outcome State Fault Refusal :=
  if operandsFit (.readSysReg address) then
    .next (sendCommand (.readSysReg address) Config.opcReadSysReg (be 2 address) s)
  else .next (raise .encoding s)

/-- WRITE_ASIC_SPI_REGISTER(reg_addr, bit_length, value), R164. The value field is one byte whatever `bit_length`
says, and `value` is not checked against it (D18). -/
def execWriteAsicSpiRegister (regAddr bitLength value : Nat) (s : State) : Host.Outcome State Fault Refusal :=
  if operandsFit (.writeAsicSpiRegister regAddr bitLength value) then
    if bitLengthRefused s.params.bitLengthPolicy bitLength then .refused .bitLengthOutside1To8
    else
      let payload := [s.asicId, s.spiFormat] ++ be 2 regAddr ++ be 2 bitLength ++ [BitVec.ofNat 8 value]
      .next (sendCommand (.writeAsicSpiRegister regAddr bitLength value) Config.opcWriteAsicSpiRegister payload s)
  else .next (raise .encoding s)

/-- READ_ASIC_SPI_EX_REGISTER(reg_addr, bit_length), R165. -/
def execReadAsicSpiExRegister (regAddr bitLength : Nat) (s : State) : Host.Outcome State Fault Refusal :=
  if operandsFit (.readAsicSpiExRegister regAddr bitLength) then
    let payload := [s.asicId, s.spiFormat] ++ be 2 regAddr ++ be 2 bitLength
    .next (sendCommand (.readAsicSpiExRegister regAddr bitLength) Config.opcReadAsicSpiExRegister payload s)
  else .next (raise .encoding s)

end Sys2Proof.Machine
end

