-- ==== Sys2Proof/Machine/Counter.lean ====
section
/-! DEFINITION. The 14-bit sequence counter: CURRENT, INCREMENT_AFTER_SEND, GET_COUNT (41_sequence_counter.md). -/

namespace Sys2Proof.Machine

/-- CURRENT(), R140: returns SEQ widened to 16 bits. -/
def execCurrent (s : State) : Host.Outcome State Fault Refusal :=
  .next (finish (.count (currentCount s)) s)

/-- INCREMENT_AFTER_SEND(), R141: SEQ advances by one modulo 16384, silently. -/
def execIncrementAfterSend (s : State) : Host.Outcome State Fault Refusal :=
  .next (finish .nothing (advanceSeq s))

/-- GET_COUNT(), R148: returns CURRENT(); it never blocks and has no error. -/
def execGetCount (s : State) : Host.Outcome State Fault Refusal :=
  .next (finish (.count (currentCount s)) s)

end Sys2Proof.Machine
end

