-- ==== Sys2Proof/Machine/Header.lean ====
section
/-! DEFINITION. The header encoder as an operation of its own: ENCODE_HEADER (40_header_codec.md). -/

namespace Sys2Proof.Machine

/-- ENCODE_HEADER(packet_type, data_length), R120: returns the ten header bytes, or ends with `FramingError` (R123,
R125). No register is written (R124). -/
def execEncodeHeader (packetType dataLength : Nat) (s : State) : Host.Outcome State Fault Refusal :=
  match buildHeader packetType dataLength s with
  | .ok header => .next (finish (.bytes header) s)
  | .error e => .next (raise e s)

end Sys2Proof.Machine
end

