-- ==== Sys2Proof/Machine/Session.lean ====
section
/-! DEFINITION. The session operations: READ_BACK and the setters (43_session_ops.md). -/

namespace Sys2Proof.Machine

/-- READ_BACK(byte_length), R200: exactly n bytes off the front of the receive stream, uninterpreted; `TransportError`
if the stream closes first (R202); nothing at all for n = 0, without calling the transport (R203). -/
def execReadBack (n : Nat) (s : State) : Host.Outcome State Fault Refusal :=
  if n = 0 then .next (finish (.bytes []) s)
  else .next (endReceive n (rxRecvExact n s))

/-- SET_SPI_FORMAT(v), R206. -/
def execSetSpiFormat (v : Nat) (s : State) : Host.Outcome State Fault Refusal :=
  if operandsFit (.setSpiFormat v) then .next (finish .nothing (writeSpiFormat (BitVec.ofNat 8 v) s))
  else .next (raise .encoding s)

/-- SET_ASIC_ID(v), R207. -/
def execSetAsicId (v : Nat) (s : State) : Host.Outcome State Fault Refusal :=
  if operandsFit (.setAsicId v) then .next (finish .nothing (writeAsicId (BitVec.ofNat 8 v) s))
  else .next (raise .encoding s)

/-- SET_TRACE(b), R208. -/
def execSetTrace (b : Bool) (s : State) : Host.Outcome State Fault Refusal :=
  .next (finish .nothing (writeTrace b s))

end Sys2Proof.Machine
end

