-- ==== Sys2Proof/Machine/Dispatch.lean ====
section
/-! DEFINITION. One arm per operation of 30_encoding.md R95. -/

namespace Sys2Proof.Machine

def exec (i : Instr) (s : State) : Host.Outcome State Fault Refusal :=
  match i with
  | .writeSysReg address n value => Sys2Proof.Machine.execWriteSysReg address n value s
  | .readSysReg address => Sys2Proof.Machine.execReadSysReg address s
  | .writeAsicSpiRegister regAddr bitLength value => Sys2Proof.Machine.execWriteAsicSpiRegister regAddr bitLength value s
  | .readAsicSpiExRegister regAddr bitLength => Sys2Proof.Machine.execReadAsicSpiExRegister regAddr bitLength s
  | .readBack n => Sys2Proof.Machine.execReadBack n s
  | .setSpiFormat v => Sys2Proof.Machine.execSetSpiFormat v s
  | .setAsicId v => Sys2Proof.Machine.execSetAsicId v s
  | .setTrace b => Sys2Proof.Machine.execSetTrace b s
  | .getCount => Sys2Proof.Machine.execGetCount s
  | .encodeHeader packetType dataLength => Sys2Proof.Machine.execEncodeHeader packetType dataLength s
  | .current => Sys2Proof.Machine.execCurrent s
  | .incrementAfterSend => Sys2Proof.Machine.execIncrementAfterSend s

end Sys2Proof.Machine
end

