-- ==== Sys2Proof/Machine/Port.lean ====
section
/-! DEFINITION. The command channel: what the block does with the request it accepts (30_encoding.md R92, R95, R98;
60_exceptions.md R230; 70_reset_and_hazards.md R260, R269). -/

namespace Sys2Proof.Machine

/-- An operation issued by the host. The three internal sub-operations have no host step (R230, R269). -/
def runHostOp (i : Instr) (s : State) : Host.Outcome State Fault Refusal :=
  if i.isInternal then .refused .internalIssuedByHost else exec i s

/-- The request just taken off the port. An unassigned bit pattern is refused with `EncodingError`, with no I/O and no
state change (R92). Reset returns no result (R269). -/
def runRequest (r : Request) (s : State) : Host.Outcome State Fault Refusal :=
  match r with
  | .host i => runHostOp i s
  | .mux i => exec i s
  | .selected pattern operands =>
    match selectedOp s.params.selectorMap pattern with
    | some op => exec (portInstr op operands) s
    | none => .next (raise .encoding s)
  | .reset => .next (resetRegisters s)

/-- The request that issues an operation: the host issues the nine host operations, the mux the three internal ones. -/
def requestFor (i : Instr) : Request :=
  if i.isInternal then .mux i else .host i

end Sys2Proof.Machine
end

