-- ==== Sys2Proof/Machine/Step.lean ====
section
/-! DEFINITION. One step: the operation in progress goes on; or the block accepts the next request; or, with nothing
to do, the environment moves. -/

namespace Sys2Proof.Machine

/-- One step. While an operation is in progress the block accepts no request (60_exceptions.md R238); otherwise it takes
them one at a time in the order the host issued them (20_memory.md R59). Logs 2, 3. -/
def step (s : State) : Host.Outcome State Fault Refusal :=
  match s.busy with
  | some i => exec i s
  | none =>
    match s.port with
    | r :: rest => runRequest r (setPort rest s)
    | [] => .next (idleMove s)

/-- The state with the instruction of a table word as the next request at the block's port, and no operation in
progress, so that the next step runs it. A word the decoder refuses changes nothing. Log 2. -/
def State.withFetchWord (s : State) (nbits w : Nat) : State :=
  match decodeTableWord nbits w with
  | some i => { s with busy := none, port := requestFor i :: s.port }
  | none => s

end Sys2Proof.Machine
end

