-- ==== Sys2Proof/Machine/Flags.lean ====
section
/-! DEFINITION. The block has no flags and no condition codes (10_state.md R28). What stands in their place is the
status of a result, returned to the host and stored nowhere in the block (60_exceptions.md R224). -/

namespace Sys2Proof.Machine

/-- The number of an error kind (R224). -/
def errorCode : ErrorKind → BitVec 2
  | .encoding => 1#2
  | .framing => 2#2
  | .transport => 3#2

/-- The 2-bit status of a result: OK = 0, EncodingError = 1, FramingError = 2, TransportError = 3 (R224). -/
def statusCode : Result → BitVec 2
  | .ok _ => 0#2
  | .error e => errorCode e

end Sys2Proof.Machine
end

