-- ==== Sys2Proof/Machine/Serial.lean ====
section
/-! DEFINITION. The byte-serial realisation of 70_reset_and_hazards.md R267, a machine of its own beside `State` and
`step`. R267 is informative and binds no model: the transaction-level machine is the specification (R268). This one
holds the hidden state of 10_state.md R31 (operands, byte index, bytes accumulated, count still owed), all of it dead
when the operation ends (R30). Log 16. -/

namespace Sys2Proof.Machine

/-- The control states of R267, with the byte index of HDR and PAY, the down-counter of RECV and the result at DONE. -/
inductive SerialPhase where
  | idle
  | check
  | hdr (index : Nat)
  | pay (index : Nat)
  | wait
  | commit
  | recv (owed : Nat)
  | done (r : Result)
deriving DecidableEq, Repr

/-- What stands at the input ports in one step: the start strobe with the operation and operands, the TX port's ready
and the transport's `ok` and `fail`, the RX port's valid data and its `closed` input. -/
structure SerialIn where
  start : Option (HostOp × PortOperands)
  txReady : Bool
  txOk : Bool
  txFail : Bool
  rxData : Option Byte
  rxClosed : Bool
deriving DecidableEq, Repr

/-- What the block drives: busy, the TX byte with its valid, the RX ready, and at DONE the status of R224 with the
result it stands for. -/
structure SerialOut where
  busy : Bool
  txData : Option Byte
  rxReady : Bool
  done : Option (BitVec 2 × Result)
deriving DecidableEq, Repr

/-- The registers and the hidden state of R31. `handed` is what the TX port has taken in this operation. -/
structure SerialBlock where
  seq : Count
  asicId : Byte
  spiFormat : Byte
  trace : Bool
  phase : SerialPhase
  /-- The operands, latched at the start strobe. -/
  op : Option Instr
  /-- SEQ as sampled on leaving CHECK. -/
  sampled : Count
  /-- READ_BACK: the bytes accumulated so far. -/
  taken : List Byte
  handed : List Byte
deriving DecidableEq, Repr

/-- The packet the byte muxes select from: header bytes by R82, payload bytes by R161. -/
def serialPacket (b : SerialBlock) : List Byte :=
  match b.op with
  | some i => encode ⟨b.sampled, b.asicId, b.spiFormat⟩ i
  | none => []

/-- Byte `index` of the packet. -/
def serialByte (b : SerialBlock) (index : Nat) : Byte := (serialPacket b).getD index 0#8

/-- The number of payload bytes of the operation in progress (R90). -/
def serialPayloadLength (b : SerialBlock) : Nat := (serialPacket b).length - 10

/-- To DONE with a result. -/
def serialEnd (r : Result) (b : SerialBlock) : SerialBlock := { b with phase := .done r }

/-- A byte accepted at the TX port, and the control state after it. -/
def serialHand (index : Nat) (next : SerialPhase) (b : SerialBlock) : SerialBlock :=
  { b with handed := b.handed ++ [serialByte b index], phase := next }

/-- IDLE, on start: the packet-emitting commands go to CHECK, READ_BACK to RECV, the setters and GET_COUNT straight to
DONE. The command port has no internal sub-operation (R230). -/
def serialStart (i : Instr) (b : SerialBlock) : SerialBlock :=
  let b := { b with op := some i }
  match i with
  | .writeSysReg _ _ _ => { b with phase := .check }
  | .readSysReg _ => { b with phase := .check }
  | .writeAsicSpiRegister _ _ _ => { b with phase := .check }
  | .readAsicSpiExRegister _ _ => { b with phase := .check }
  | .readBack n => { b with phase := .recv n }
  | .setSpiFormat v =>
    if operandsFit (.setSpiFormat v) then serialEnd (.ok .nothing) { b with spiFormat := BitVec.ofNat 8 v }
    else serialEnd (.error .encoding) b
  | .setAsicId v =>
    if operandsFit (.setAsicId v) then serialEnd (.ok .nothing) { b with asicId := BitVec.ofNat 8 v }
    else serialEnd (.error .encoding) b
  | .setTrace t => serialEnd (.ok .nothing) { b with trace := t }
  | .getCount => serialEnd (.ok (.count (b.seq.setWidth 16))) b
  | .encodeHeader _ _ => { b with op := none }
  | .current => { b with op := none }
  | .incrementAfterSend => { b with op := none }

/-- CHECK: SEQ is sampled on leaving it; operands that do not fit end the operation. -/
def serialCheck (b : SerialBlock) : SerialBlock :=
  match b.op with
  | some i => if operandsFit i then { b with sampled := b.seq, phase := .hdr 0 } else serialEnd (.error .encoding) b
  | none => b

/-- DONE to IDLE: nothing of the operation remains (R30). -/
def serialIdle (b : SerialBlock) : SerialBlock :=
  { b with phase := .idle, op := none, sampled := 0#14, taken := [], handed := [] }

/-- One step of the control state machine of R267. -/
def serialStep (x : SerialIn) (b : SerialBlock) : SerialBlock :=
  match b.phase with
  | .idle =>
    match x.start with
    | some (op, operands) => serialStart (portInstr op operands) b
    | none => b
  | .check => serialCheck b
  | .hdr k =>
    if x.txFail then serialEnd (.error .transport) b
    else if x.txReady then serialHand k (if k + 1 < 10 then .hdr (k + 1) else .pay 0) b
    else b
  | .pay k =>
    if x.txFail then serialEnd (.error .transport) b
    else if x.txReady then serialHand (10 + k) (if k + 1 < serialPayloadLength b then .pay (k + 1) else .wait) b
    else b
  | .wait =>
    if x.txFail then serialEnd (.error .transport) b
    else if x.txOk then { b with phase := .commit }
    else b
  | .commit => serialEnd (.ok .nothing) { b with seq := b.seq + 1#14 }
  | .recv 0 => serialEnd (.ok (.bytes b.taken)) b
  | .recv (owed + 1) =>
    match x.rxData with
    | some v => { b with taken := b.taken ++ [v], phase := .recv owed }
    | none => if x.rxClosed then serialEnd (.error .transport) b else b
  | .done _ => serialIdle b

/-- The steps for a list of inputs, first input first. -/
def serialRun : List SerialIn → SerialBlock → SerialBlock
  | [], b => b
  | x :: xs, b => serialRun xs (serialStep x b)

/-- The outputs (R267). While the block is not IDLE the busy output holds off the host. -/
def serialOut (b : SerialBlock) : SerialOut :=
  match b.phase with
  | .idle => ⟨false, none, false, none⟩
  | .check => ⟨true, none, false, none⟩
  | .hdr k => ⟨true, some (serialByte b k), false, none⟩
  | .pay k => ⟨true, some (serialByte b (10 + k)), false, none⟩
  | .wait => ⟨true, none, false, none⟩
  | .commit => ⟨true, none, false, none⟩
  | .recv 0 => ⟨true, none, false, none⟩
  | .recv (_ + 1) => ⟨true, none, true, none⟩
  | .done r => ⟨true, none, false, some (statusCode r, r)⟩

/-- The byte-serial block at IDLE with the registers of a state. -/
def serialOf (s : State) : SerialBlock where
  seq := s.seq
  asicId := s.asicId
  spiFormat := s.spiFormat
  trace := s.trace
  phase := .idle
  op := none
  sampled := 0#14
  taken := []
  handed := []

end Sys2Proof.Machine
end

