-- ==== Sys2Proof/Safety.lean ====
section
/-! DEFINITION. What counts as a safe state and a safe run, in the terms the claims use: no FramingError (it marks a
defect, 60_exceptions.md R221), the link and the close marker in agreement (20_memory.md R67), only operations that can
block in progress (60_exceptions.md R238), and only host requests at the port (30_encoding.md R95). -/

namespace Sys2Proof.Machine

/-- No operation has ended with `FramingError`: a run that reaches one is a defect of the block (R221). -/
def NoFramingError (s : State) : Prop := Result.error .framing ∉ s.results

/-- The `close` marker stands in `rx` exactly when the link is closed (R67(a)). -/
def LinkMarkerAgree (s : State) : Prop := s.rxClose = true ↔ s.link = .closed

/-- The request is one a host can make: not a sub-operation issued by the mux. -/
def Request.fromHost : Request → Bool
  | .mux _ => false
  | .host _ => true
  | .selected _ _ => true
  | .reset => true

/-- Every request at the port is the host's, and the operation in progress is a host operation (R95, R230). -/
def HostDriven (s : State) : Prop :=
  (∀ r ∈ s.port, r.fromHost = true) ∧ ∀ i, s.busy = some i → i.isInternal = false

/-- The operation can block: a packet-emitting command whose operands fit, or a READ_BACK of at least one byte
(R238: "Two operations can block for ever"). -/
def canBlock (i : Instr) : Bool :=
  match i with
  | .writeSysReg _ _ _ => operandsFit i
  | .readSysReg _ => operandsFit i
  | .writeAsicSpiRegister _ _ _ => operandsFit i
  | .readAsicSpiExRegister _ _ => operandsFit i
  | .readBack n => decide (1 ≤ n)
  | .setSpiFormat _ => false
  | .setAsicId _ => false
  | .setTrace _ => false
  | .getCount => false
  | .encodeHeader _ _ => false
  | .current => false
  | .incrementAfterSend => false

/-- Only an operation that can block is ever left in progress after a step (R238). -/
def OnlyBlockingBusy (s : State) : Prop := ∀ i, s.busy = some i → canBlock i = true

/-- The invariant of a safe state. -/
def SafeState (s : State) : Prop :=
  NoFramingError s ∧ LinkMarkerAgree s ∧ HostDriven s ∧ OnlyBlockingBusy s

/-- Every state a run of the machine goes through from s is free of FramingError. -/
def SafeRun (s : State) : Prop :=
  ∀ k t, Host.Core.run Sys2Proof.core k s = .next t → NoFramingError t

/-- What one host operation does to the count and to the wire, from the count c to the count c' with the bytes p on the
wire (41_sequence_counter.md R142, R144): a command that ended with OK put one packet there carrying c, and the count is
one further; anything else left the count, with nothing on the wire or less than the whole of a packet carrying c. -/
def OperationAccount (c : Count) (i : Instr) (r : Result) (p : List Byte) (c' : Count) : Prop :=
  if i.emitsPacket = true ∧ r = .ok .nothing then
    c' = c + 1#14 ∧ ∃ d, decodePacket p = .ok (d, []) ∧ d.instr = i ∧ d.count = c
  else
    c' = c ∧ (p = [] ∨ ∃ q d, p <+: q ∧ p.length < q.length ∧ decodePacket q = .ok (d, []) ∧ d.instr = i ∧ d.count = c)

/-- The same for a sequence of operations, each with its result and its bytes. -/
def RunAccount : Count → List Instr → List Result → List (List Byte) → Count → Prop
  | c, [], [], [], c' => c' = c
  | c, i :: is, r :: rs, p :: ps, c' => ∃ m, OperationAccount c i r p m ∧ RunAccount m is rs ps c'
  | _, _, _, _, _ => False

/-- The number of commands among the operations that ended with OK: the k of R144. -/
def sentCount (ops : List Instr) (rs : List Result) : Nat :=
  ((ops.zip rs).filter fun e => e.1.emitsPacket && decide (e.2 = .ok .nothing)).length

/-- The registers of two states are the same (R20: the whole architectural state). -/
def SameRegisters (s t : State) : Prop :=
  t.seq = s.seq ∧ t.asicId = s.asicId ∧ t.spiFormat = s.spiFormat ∧ t.trace = s.trace

/-- The registers an encoding takes its implicit operands from (R81, R87, R88). -/
def State.implicit (s : State) : Implicit := ⟨s.seq, s.asicId, s.spiFormat⟩

/-- The bytes the environment's moves deliver, in order (R32). -/
def deliveredBytes : List EnvMove → List Byte
  | [] => []
  | .deliver bs :: es => bs ++ deliveredBytes es
  | .close :: es => deliveredBytes es
  | .sendOk :: es => deliveredBytes es
  | .sendFail _ :: es => deliveredBytes es
  | .cancel _ :: es => deliveredBytes es

/-- Between the two states the environment's first moves were taken, and `rx` gained exactly what they delivered, behind
what was there (20_memory.md R64); nothing where the `close` marker already stood (R67(a), log 14). -/
def ReceivedOnly (s t : State) : Prop :=
  ∃ moves : List EnvMove, s.env = moves ++ t.env ∧ t.rx = s.rx ++ (if s.rxClose then [] else deliveredBytes moves)

/-- The configuration bytes an operation's packet carries: those of the two ASIC SPI commands (R87, R88, R171). -/
def configBytes (x : Implicit) (i : Instr) : Option (Byte × Byte) :=
  match i with
  | .writeAsicSpiRegister _ _ _ => some (x.asicId, x.spiFormat)
  | .readAsicSpiExRegister _ _ => some (x.asicId, x.spiFormat)
  | .writeSysReg _ _ _ => none
  | .readSysReg _ => none
  | .readBack _ => none
  | .setSpiFormat _ => none
  | .setAsicId _ => none
  | .setTrace _ => none
  | .getCount => none
  | .encodeHeader _ _ => none
  | .current => none
  | .incrementAfterSend => none

/-- What the byte-serial block has handed over and sampled, control state by control state (R267, R268): no byte before
the checks have passed, SEQ sampled once before the first byte, the packet's bytes in order with none missing, SEQ
advanced only after the whole packet was handed over, nothing left over at IDLE. That the transport confirmed it too is
a property of the step, not of the state (Obligations.SerialStepKeepsItsInvariant). -/
def SerialInv (b : SerialBlock) : Prop :=
  match b.phase with
  | .idle => b.op = none ∧ b.handed = [] ∧ b.taken = []
  | .check => (∃ i, b.op = some i ∧ i.emitsPacket = true) ∧ b.handed = [] ∧ b.taken = []
  | .hdr k =>
    (∃ i, b.op = some i ∧ i.emitsPacket = true ∧ operandsFit i = true) ∧ b.sampled = b.seq ∧ k < 10
      ∧ b.handed = (serialPacket b).take k
  | .pay k =>
    (∃ i, b.op = some i ∧ i.emitsPacket = true ∧ operandsFit i = true) ∧ b.sampled = b.seq
      ∧ 10 + k < (serialPacket b).length ∧ b.handed = (serialPacket b).take (10 + k)
  | .wait =>
    (∃ i, b.op = some i ∧ i.emitsPacket = true ∧ operandsFit i = true) ∧ b.sampled = b.seq
      ∧ b.handed = serialPacket b
  | .commit =>
    (∃ i, b.op = some i ∧ i.emitsPacket = true ∧ operandsFit i = true) ∧ b.sampled = b.seq
      ∧ b.handed = serialPacket b
  | .recv owed => (∃ n, b.op = some (.readBack n) ∧ b.taken.length + owed = n) ∧ b.handed = []
  | .done r =>
    ∃ i, b.op = some i ∧
      (i.emitsPacket = true →
        (r = .ok .nothing ∧ operandsFit i = true ∧ b.handed = serialPacket b ∧ b.seq = b.sampled + 1#14)
        ∨ (r = .error .transport ∧ operandsFit i = true ∧ b.handed <+: serialPacket b ∧ b.seq = b.sampled)
        ∨ (r = .error .encoding ∧ operandsFit i = false ∧ b.handed = [])) ∧
      (i.emitsPacket = false → b.handed = []) ∧
      (∀ n, i = .readBack n →
        (r = .ok (.bytes b.taken) ∧ b.taken.length = n) ∨ (r = .error .transport ∧ b.taken.length < n))

end Sys2Proof.Machine
end

