-- ==== Sys2Proof/Certificates/Slice0/Obligations.lean ====
section
/-! DEFINITION. The statements for the provers. Each docstring names the rule of spec/ a statement formalises, and the
log entry where a clause rests on a choice of the model. A next state is written as an update of the state before: the
fields it does not name are unchanged, which is the statement's frame. -/

open Sys2Proof Sys2Proof.Machine

/-! ### The step -/

/-- What a step runs: the operation in progress; else the request at the head of the port, taken off it (20_memory.md
R59, 30_encoding.md R95). These clauses are the model's: the port itself is log 2 (DESIGN CHOICE), that a block with an
operation in progress executes it again is log 3 (DEDUCED), the mux's request as a step of its own is log 13 (DESIGN
CHOICE, a run the block does not have), and a selector's operand lines and first match are log 10 (DESIGN CHOICE). That a
host request for a sub-operation has no step is 70_reset_and_hazards.md R269, and that it is a refusal is log 13. -/
def Obligations.StepRunsTheAcceptedRequest : Prop :=
  (∀ (s : State) (i : Instr), s.busy = some i → step s = exec i s) ∧
  ∀ (s : State) (rest : List Request), s.busy = none →
    (∀ i : Instr, i.isInternal = false → s.port = .host i :: rest → step s = exec i { s with port := rest }) ∧
    (∀ i : Instr, i.isInternal = true → s.port = .host i :: rest → step s = .refused .internalIssuedByHost) ∧
    (∀ i : Instr, s.port = .mux i :: rest → step s = exec i { s with port := rest }) ∧
    (∀ (pattern : Nat) (x : PortOperands) (op : HostOp), s.port = .selected pattern x :: rest →
      selectedOp s.params.selectorMap pattern = some op → step s = exec (portInstr op x) { s with port := rest })

/-- The instruction of a table word is the one the next step runs (log 2, log 17). -/
def Obligations.FetchedTableWordIsRun : Prop :=
  ∀ (s : State) (nbits w : Nat) (i : Instr), decodeTableWord nbits w = some i →
    step (s.withFetchWord nbits w) = exec i { s with busy := none }

/-- The packets of 95_test_vectors.md T3, T4, T5, WA1 and the header of H7, as the spec writes them out, decode to the
operations they stand for. -/
def Obligations.WrittenPacketsDecode : Prop :=
  decode [0x00, 0x10, 0x00, 0x00, 0x00, 0x00, 0x00, 0x00, 0x00, 0x04, 0x00, 0x10, 0x01, 0xAB]
      = .ok (⟨.writeSysReg 0x0010 1 0xAB, 0, none⟩, []) ∧
  decode [0x00, 0x11, 0x00, 0x00, 0x00, 0x00, 0x00, 0x00, 0x00, 0x02, 0x00, 0x20]
      = .ok (⟨.readSysReg 0x0020, 0, none⟩, []) ∧
  decode [0x00, 0xC2, 0x00, 0x00, 0x00, 0x00, 0x00, 0x00, 0x00, 0x07, 0x00, 0x02, 0x01, 0x02, 0x00, 0x08, 0x5A]
      = .ok (⟨.writeAsicSpiRegister 0x0102 8 0x5A, 0, some (0x00, 0x02)⟩, []) ∧
  decode [0x00, 0xC3, 0x00, 0x00, 0x00, 0x00, 0x00, 0x00, 0x00, 0x06, 0x00, 0x02, 0x00, 0x05, 0x00, 0x08]
      = .ok (⟨.readAsicSpiExRegister 0x0005 8, 0, some (0x00, 0x02)⟩, []) ∧
  decode [0x00, 0xA5, 0x2A, 0xAA, 0x00, 0x00, 0x00, 0x00, 0x5A, 0x5A]
      = .ok (⟨.encodeHeader 0xA5 0x5A5A, 0x2AAA, none⟩, [])

/-- With nothing to do, the block lets the environment move (10_state.md R32; 20_memory.md R67(a)); with no move to
come, nothing changes. The list of moves is the model's (log 1). What is not in R32 or R67 is log 14: bytes after the
marker, an answer to no send and a cancellation of no transfer are dropped. -/
def Obligations.IdleBlockLetsTheEnvironmentMove : Prop :=
  ∀ s : State, s.busy = none → s.port = [] →
    (s.env = [] → step s = .next s) ∧
    (∀ bs es, s.env = .deliver bs :: es → s.rxClose = false →
      step s = .next { s with rx := s.rx ++ bs, env := es }) ∧
    (∀ bs es, s.env = .deliver bs :: es → s.rxClose = true → step s = .next { s with env := es }) ∧
    (∀ es, s.env = .close :: es → step s = .next { s with link := .closed, rxClose := true, env := es }) ∧
    (∀ es, s.env = .sendOk :: es → step s = .next { s with env := es }) ∧
    (∀ k es, s.env = .sendFail k :: es → step s = .next { s with env := es }) ∧
    (∀ k es, s.env = .cancel k :: es → step s = .next { s with env := es })

/-! ### Reset -/

/-- The reset event writes the four registers and leaves the streams, the link and everything else alone (10_state.md
R37; 70_reset_and_hazards.md R262), and the machine right after reset has the default register values. The default of
TRACE is the spec's own (D4). -/
def Obligations.ResetWritesTheRegistersOnly : Prop :=
  (State.reset.seq = 0 ∧ State.reset.asicId = 0x00 ∧ State.reset.spiFormat = 0x02 ∧ State.reset.trace = false
    ∧ State.reset.busy = none) ∧
  ∀ (s : State) (rest : List Request), s.busy = none → s.port = .reset :: rest →
    step s = .next { s with port := rest, seq := 0, asicId := s.params.asicIdInit,
                            spiFormat := s.params.spiFormatInit, trace := s.params.traceInit }

/-! ### The header encoder -/

/-- 40_header_codec.md R128: the ten bytes of a header; nothing else changes. -/
def Obligations.EncodeHeaderReturnsTheByteTable : Prop :=
  ∀ (s : State) (t d : Nat), t < 256 → d < 65536 →
    exec (.encodeHeader t d) s = .next { s with
      busy := none,
      results := s.results ++ [.ok (.bytes
        [0x00, BitVec.ofNat 8 t, BitVec.ofNat 8 (s.seq.toNat / 256), BitVec.ofNat 8 (s.seq.toNat % 256),
          0x00, 0x00, 0x00, 0x00, BitVec.ofNat 8 (d / 256), BitVec.ofNat 8 (d % 256)])] }

/-- 40_header_codec.md R125: an operand out of range is FramingError, never a truncated header. That the error is a
result and not a stop is log 12. -/
def Obligations.EncodeHeaderNeverTruncates : Prop :=
  ∀ (s : State) (t d : Nat), 256 ≤ t ∨ 65536 ≤ d →
    exec (.encodeHeader t d) s = .next { s with busy := none, results := s.results ++ [.error .framing] }

/-- 40_header_codec.md R127: parsing the header that was encoded gives the three values and zeros, and the map from
the triple to the ten bytes is injective. -/
def Obligations.HeaderRoundTripIsExact : Prop :=
  (∀ (s : State) (t d : Nat), t < 256 → d < 65536 →
    ∃ bs : List Byte,
      exec (.encodeHeader t d) s = .next { s with busy := none, results := s.results ++ [.ok (.bytes bs)] } ∧
      bs.length = 10 ∧
      decodeHeader bs = some { version := 0, systemNumber := 0, packetType := BitVec.ofNat 8 t, sequencerFlag := 0,
                               packetCount := s.seq, reserved := 0, dataLength := BitVec.ofNat 16 d }) ∧
  ∀ (s s' : State) (t d t' d' : Nat) (bs : List Byte),
    buildHeader t d s = .ok bs → buildHeader t' d' s' = .ok bs → t = t' ∧ d = d' ∧ s.seq = s'.seq

/-! ### The counter -/

/-- 41_sequence_counter.md R140: CURRENT returns SEQ widened to 16 bits, below 2^14, and writes nothing. -/
def Obligations.CurrentReturnsTheCount : Prop :=
  ∀ s : State, ∃ c : BitVec 16, c.toNat = s.seq.toNat ∧ c.toNat < 2 ^ 14 ∧
    exec .current s = .next { s with busy := none, results := s.results ++ [.ok (.count c)] }

/-- 41_sequence_counter.md R141: SEQ advances by one modulo 16384, with no error at the wrap. -/
def Obligations.IncrementAdvancesModulo16384 : Prop :=
  ∀ s : State, ∃ c : Count, c.toNat = (s.seq.toNat + 1) % 16384 ∧
    exec .incrementAfterSend s = .next { s with seq := c, busy := none, results := s.results ++ [.ok .nothing] }

/-- 41_sequence_counter.md R148: GET_COUNT returns the counter, always, and writes nothing. -/
def Obligations.GetCountReturnsTheCount : Prop :=
  ∀ s : State, ∃ c : BitVec 16, c.toNat = s.seq.toNat ∧
    exec .getCount s = .next { s with busy := none, results := s.results ++ [.ok (.count c)] }

/-! ### The four commands -/

/-- 42_command_encoder.md R162 where the transport answers ok: the packet byte by byte, SEQ one further, no other
register changed, nothing taken from rx. -/
def Obligations.WriteSysRegSendsItsPacket : Prop :=
  ∀ (s : State) (address n value : Nat) (es : List EnvMove),
    address < 65536 → n < 256 → value < 2 ^ (8 * n) → s.link = .opened → s.env = .sendOk :: es →
    exec (.writeSysReg address n value) s = .next { s with
      seq := s.seq + 1,
      wire := s.wire ++
        ([0x00, 0x10, BitVec.ofNat 8 (s.seq.toNat / 256), BitVec.ofNat 8 (s.seq.toNat % 256), 0x00, 0x00, 0x00, 0x00,
          BitVec.ofNat 8 ((3 + n) / 256), BitVec.ofNat 8 ((3 + n) % 256),
          BitVec.ofNat 8 (address / 256), BitVec.ofNat 8 (address % 256), BitVec.ofNat 8 n] ++ be n value),
      env := es, busy := none, results := s.results ++ [.ok .nothing] }

/-- 42_command_encoder.md R163 where the transport answers ok. -/
def Obligations.ReadSysRegSendsItsPacket : Prop :=
  ∀ (s : State) (address : Nat) (es : List EnvMove),
    address < 65536 → s.link = .opened → s.env = .sendOk :: es →
    exec (.readSysReg address) s = .next { s with
      seq := s.seq + 1,
      wire := s.wire ++
        [0x00, 0x11, BitVec.ofNat 8 (s.seq.toNat / 256), BitVec.ofNat 8 (s.seq.toNat % 256), 0x00, 0x00, 0x00, 0x00,
          0x00, 0x02, BitVec.ofNat 8 (address / 256), BitVec.ofNat 8 (address % 256)],
      env := es, busy := none, results := s.results ++ [.ok .nothing] }

/-- 42_command_encoder.md R164 where the transport answers ok: 17 bytes whatever `bit_length` says, under the policy
`fixed1` for every `bit_length` and under `refuse_outside_1_8` for 1 to 8. -/
def Obligations.WriteAsicSpiRegisterSendsItsPacket : Prop :=
  ∀ (s : State) (regAddr bitLength value : Nat) (es : List EnvMove),
    regAddr < 65536 → bitLength < 65536 → value < 256 →
    (s.params.bitLengthPolicy = .fixed1 ∨ (1 ≤ bitLength ∧ bitLength ≤ 8)) →
    s.link = .opened → s.env = .sendOk :: es →
    exec (.writeAsicSpiRegister regAddr bitLength value) s = .next { s with
      seq := s.seq + 1,
      wire := s.wire ++
        [0x00, 0xC2, BitVec.ofNat 8 (s.seq.toNat / 256), BitVec.ofNat 8 (s.seq.toNat % 256), 0x00, 0x00, 0x00, 0x00,
          0x00, 0x07, s.asicId, s.spiFormat, BitVec.ofNat 8 (regAddr / 256), BitVec.ofNat 8 (regAddr % 256),
          BitVec.ofNat 8 (bitLength / 256), BitVec.ofNat 8 (bitLength % 256), BitVec.ofNat 8 value],
      env := es, busy := none, results := s.results ++ [.ok .nothing] }

/-- 42_command_encoder.md R165 where the transport answers ok. -/
def Obligations.ReadAsicSpiExRegisterSendsItsPacket : Prop :=
  ∀ (s : State) (regAddr bitLength : Nat) (es : List EnvMove),
    regAddr < 65536 → bitLength < 65536 → s.link = .opened → s.env = .sendOk :: es →
    exec (.readAsicSpiExRegister regAddr bitLength) s = .next { s with
      seq := s.seq + 1,
      wire := s.wire ++
        [0x00, 0xC3, BitVec.ofNat 8 (s.seq.toNat / 256), BitVec.ofNat 8 (s.seq.toNat % 256), 0x00, 0x00, 0x00, 0x00,
          0x00, 0x06, s.asicId, s.spiFormat, BitVec.ofNat 8 (regAddr / 256), BitVec.ofNat 8 (regAddr % 256),
          BitVec.ofNat 8 (bitLength / 256), BitVec.ofNat 8 (bitLength % 256)],
      env := es, busy := none, results := s.results ++ [.ok .nothing] }

/-- 42_command_encoder.md R166, in every state, a closed link and a waiting environment included (60_exceptions.md
R225): an operand that does not fit ends the command with one EncodingError, with no register changed and nothing on
the wire. -/
def Obligations.OversizedOperandsEndWithEncodingError : Prop :=
  ∀ s : State,
    (∀ address n value, ¬ (address < 2 ^ 16 ∧ n < 2 ^ 8 ∧ value < 2 ^ (8 * n)) →
      exec (.writeSysReg address n value) s
        = .next { s with busy := none, results := s.results ++ [.error .encoding] }) ∧
    (∀ address, ¬ address < 2 ^ 16 →
      exec (.readSysReg address) s = .next { s with busy := none, results := s.results ++ [.error .encoding] }) ∧
    (∀ regAddr bitLength value, ¬ (regAddr < 2 ^ 16 ∧ bitLength < 2 ^ 16 ∧ value < 2 ^ 8) →
      exec (.writeAsicSpiRegister regAddr bitLength value) s
        = .next { s with busy := none, results := s.results ++ [.error .encoding] }) ∧
    (∀ regAddr bitLength, ¬ (regAddr < 2 ^ 16 ∧ bitLength < 2 ^ 16) →
      exec (.readAsicSpiExRegister regAddr bitLength) s
        = .next { s with busy := none, results := s.results ++ [.error .encoding] })

/-- The whole contract of 42_command_encoder.md R160 for the four commands: what goes to the transport is exactly the
encoding of the command under the registers of the moment, and the three answers of the transport decide the rest. In
particular FramingError is never reached (R168). How a blocked operation is kept is log 3. -/
def Obligations.CommandHandsItsEncodingToTheTransport : Prop :=
  ∀ (i : Instr) (s : State), i.emitsPacket = true → i.wellFormed = true →
    (∀ r b v, i = .writeAsicSpiRegister r b v → bitLengthRefused s.params.bitLengthPolicy b = false) →
    exec i s = .next
      (match txSendAll (encode s.implicit i) s with
        | .ok t => { t with seq := s.seq + 1, busy := none, results := s.results ++ [.ok .nothing] }
        | .fail t => { t with busy := none, results := s.results ++ [.error .transport] }
        | .blocked t => { t with busy := some i })

/-- 20_memory.md R65 and R67(c), 60_exceptions.md R223: a send that fails after k bytes leaves exactly those on the
wire; a send on a closed link adds nothing; both leave the registers alone. The third clause, a close that arrives
while the send waits, is the model's reading (log 15). -/
def Obligations.FailedSendLeavesTheRegisters : Prop :=
  ∀ (i : Instr) (s : State), i.emitsPacket = true → i.wellFormed = true →
    (∀ r b v, i = .writeAsicSpiRegister r b v → bitLengthRefused s.params.bitLengthPolicy b = false) →
    (∀ k es, s.link = .opened → s.env = .sendFail k :: es → k < (encode s.implicit i).length →
      exec i s = .next { s with wire := s.wire ++ (encode s.implicit i).take k, env := es, busy := none,
                                results := s.results ++ [.error .transport] }) ∧
    (s.link = .closed →
      exec i s = .next { s with busy := none, results := s.results ++ [.error .transport] }) ∧
    (∀ es, s.link = .opened → s.env = .close :: es →
      exec i s = .next { s with link := .closed, rxClose := true, env := es, busy := none,
                                results := s.results ++ [.error .transport] })

/-- 60_exceptions.md R239: with the hook present a cancellation ends a blocked send or receive as TransportError, the
link unchanged; with the hook absent it changes nothing of what the operation does. The prefix of a cancelled send and
the fate of the bytes of a cancelled receive are read from R223 (log 9). -/
def Obligations.TimeoutHookEndsABlockedTransfer : Prop :=
  (∀ (i : Instr) (s : State) (k : Nat) (es : List EnvMove), i.emitsPacket = true → i.wellFormed = true →
    (∀ r b v, i = .writeAsicSpiRegister r b v → bitLengthRefused s.params.bitLengthPolicy b = false) →
    s.link = .opened → s.env = .cancel k :: es →
    (s.params.timeoutHook = .present → k < (encode s.implicit i).length →
      exec i s = .next { s with wire := s.wire ++ (encode s.implicit i).take k, env := es, busy := none,
                                results := s.results ++ [.error .transport] }) ∧
    (s.params.timeoutHook = .absent → exec i s = exec i { s with env := es })) ∧
  ∀ (n : Nat) (s : State) (k : Nat) (es : List EnvMove), s.rx.length < n → s.rxClose = false →
    s.env = .cancel k :: es →
    (s.params.timeoutHook = .present →
      exec (.readBack n) s = .next { s with rx := [], env := es, busy := none,
                                            results := s.results ++ [.error .transport] }) ∧
    (s.params.timeoutHook = .absent → exec (.readBack n) s = exec (.readBack n) { s with env := es })

/-- 60_exceptions.md R238: with no answer from the environment a command, and a READ_BACK with too few bytes and no
close, stay in progress with nothing changed; and while an operation is in progress no request is accepted. That the
wait is a step that leaves the operation in progress is log 3. -/
def Obligations.BlockedOperationStaysInProgress : Prop :=
  (∀ (i : Instr) (s : State), i.emitsPacket = true → i.wellFormed = true →
    (∀ r b v, i = .writeAsicSpiRegister r b v → bitLengthRefused s.params.bitLengthPolicy b = false) →
    s.link = .opened → s.env = [] → exec i s = .next { s with busy := some i }) ∧
  (∀ (n : Nat) (s : State), s.rx.length < n → s.rxClose = false → s.env = [] →
    exec (.readBack n) s = .next { s with busy := some (.readBack n) }) ∧
  ∀ (s t : State) (i : Instr), s.busy = some i → step s = .next t → t.port = s.port

/-- 42_command_encoder.md R172: two successful issues of one command give packets that differ in header bytes 2 and 3
only, which hold consecutive counts; a failed issue and then a successful one put the packet the first tried to send on
the wire. -/
def Obligations.ReissueDiffersInTheCountOnly : Prop :=
  ∀ (i : Instr) (s : State) (es : List EnvMove), i.emitsPacket = true → i.wellFormed = true →
    (∀ r b v, i = .writeAsicSpiRegister r b v → bitLengthRefused s.params.bitLengthPolicy b = false) →
    s.link = .opened →
    (s.env = .sendOk :: .sendOk :: es →
      ∃ (t u : State) (p q : List Byte), exec i s = .next t ∧ exec i t = .next u ∧
        t.wire = s.wire ++ p ∧ u.wire = s.wire ++ p ++ q ∧ p.take 2 = q.take 2 ∧ p.drop 4 = q.drop 4 ∧
        p.length = q.length ∧
        (decodeHeader (p.take 10)).map Header.packetCount = some s.seq ∧
        (decodeHeader (q.take 10)).map Header.packetCount = some (s.seq + 1)) ∧
    (∀ k, s.env = .sendFail k :: .sendOk :: es → k < (encode s.implicit i).length →
      ∃ (t u : State) (p : List Byte), p = encode s.implicit i ∧ exec i s = .next t ∧ exec i t = .next u ∧
        t.wire = s.wire ++ p.take k ∧ t.seq = s.seq ∧ u.wire = s.wire ++ p.take k ++ p ∧ u.seq = s.seq + 1)

/-- 42_command_encoder.md R169, over every state and environment: a command that takes a step ends in exactly one of
these ways, or is still in progress with nothing changed but what the environment did to its own streams. -/
def Obligations.CommandIsAllOrNothing : Prop :=
  ∀ (i : Instr) (s t : State), i.emitsPacket = true → exec i s = .next t →
    (t.results = s.results ++ [.ok .nothing] ∧ t.busy = none ∧ t.wire = s.wire ++ encode s.implicit i ∧
      t.seq = s.seq + 1 ∧ t.asicId = s.asicId ∧ t.spiFormat = s.spiFormat ∧ t.trace = s.trace) ∨
    t = { s with busy := none, results := s.results ++ [.error .encoding] } ∨
    (t.results = s.results ++ [.error .transport] ∧ t.busy = none ∧ SameRegisters s t ∧
      ∃ k, k < (encode s.implicit i).length ∧ t.wire = s.wire ++ (encode s.implicit i).take k) ∨
    (t.results = s.results ∧ t.busy = some i ∧ SameRegisters s t ∧ t.wire = s.wire)

/-- 60_exceptions.md R224: the four status codes. -/
def Obligations.StatusCodesAreTheSpecs : Prop :=
  (∀ v : Value, (statusCode (.ok v)).toNat = 0) ∧ (statusCode (.error .encoding)).toNat = 1 ∧
  (statusCode (.error .framing)).toNat = 2 ∧ (statusCode (.error .transport)).toNat = 3

/-- 20_memory.md R57 and R63, 30_encoding.md R83, R84, R93 and R97: whatever a command puts on the wire with OK is one
packet whose own first ten bytes give its length, its type is one of the four emitted ones, its constant fields are 0,
and it carries the count. -/
def Obligations.EmittedPacketsFrameThemselves : Prop :=
  ∀ (i : Instr) (s t : State), i.emitsPacket = true → exec i s = .next t → t.results = s.results ++ [.ok .nothing] →
    ∃ (p : List Byte) (h : Header), t.wire = s.wire ++ p ∧ p.length = i.encodedLength ∧ 12 ≤ p.length ∧
      p.length ≤ 268 ∧ decodeHeader (p.take 10) = some h ∧ p.length = 10 + h.dataLength.toNat ∧
      h.packetCount = s.seq ∧ h.constantsZero = true ∧
      (h.packetType = 0x10 ∨ h.packetType = 0x11 ∨ h.packetType = 0xC2 ∨ h.packetType = 0xC3)

/-- 42_command_encoder.md R167 and 20_memory.md R64: a command reads nothing from rx, whatever the device sends back and
whenever. The moves it waited through are the first ones of the environment's list, and rx afterwards is exactly what was
there and then the bytes those moves delivered, in order. That bytes after the close marker are dropped, in the states in
which the marker already stands, is log 14; the list of moves is log 1. -/
def Obligations.CommandTakesNothingFromRx : Prop :=
  ∀ (i : Instr) (s t : State), i.emitsPacket = true → exec i s = .next t →
    ∃ moves : List EnvMove, s.env = moves ++ t.env ∧
      t.rx = s.rx ++ (if s.rxClose then [] else deliveredBytes moves)

/-- 42_command_encoder.md R164, the second line of its pseudocode: under `refuse_outside_1_8`, and only there, the
model gives the command no meaning when `bit_length` is not 1 to 8. -/
def Obligations.BitLengthPolicyRefusesOutside1To8 : Prop :=
  ∀ (s : State) (regAddr bitLength value : Nat), regAddr < 65536 → bitLength < 65536 → value < 256 →
    (exec (.writeAsicSpiRegister regAddr bitLength value) s = .refused .bitLengthOutside1To8 ↔
      s.params.bitLengthPolicy = .refuseOutside1To8 ∧ (bitLength = 0 ∨ 8 < bitLength))

/-! ### READ_BACK -/

/-- 43_session_ops.md R200 where enough bytes are there: exactly the first n, in order, the rest stays, and no register
and no other stream changes, whatever the environment has in store and whether the stream is open or closed. -/
def Obligations.ReadBackTakesTheFirstBytes : Prop :=
  ∀ (s : State) (n : Nat), n ≤ s.rx.length →
    exec (.readBack n) s = .next { s with rx := s.rx.drop n, busy := none,
                                          results := s.results ++ [.ok (.bytes (s.rx.take n))] }

/-- 43_session_ops.md R203: zero bytes at once, whatever the stream and the environment. -/
def Obligations.ReadBackOfZeroReturnsAtOnce : Prop :=
  ∀ s : State, exec (.readBack 0) s = .next { s with busy := none, results := s.results ++ [.ok (.bytes [])] }

/-- 43_session_ops.md R202: a stream that closed early gives TransportError and no bytes, the bytes that were there are
gone, every later READ_BACK of at least one byte fails at once, and one of no more bytes than arrived succeeds. -/
def Obligations.ReadBackAfterAnEarlyClose : Prop :=
  ∀ (s : State) (n : Nat), s.rxClose = true →
    (s.rx.length < n →
      ∃ t, t = { s with rx := [], busy := none, results := s.results ++ [.error .transport] } ∧
        exec (.readBack n) s = .next t ∧
        ∀ m, 1 ≤ m → exec (.readBack m) t = .next { t with results := t.results ++ [.error .transport] }) ∧
    (n ≤ s.rx.length →
      exec (.readBack n) s = .next { s with rx := s.rx.drop n, busy := none,
                                            results := s.results ++ [.ok (.bytes (s.rx.take n))] })

/-- 43_session_ops.md R201: however the arriving bytes are cut into fragments, READ_BACK returns the first n of the
stream, and what is left of the stream, taken or still to arrive, is the rest of it in order. -/
def Obligations.FragmentsAreAccumulated : Prop :=
  ∀ (s : State) (n : Nat) (fragments : List (List Byte)) (es : List EnvMove),
    s.rxClose = false → s.env = fragments.map EnvMove.deliver ++ es → n ≤ (s.rx ++ fragments.flatten).length →
    ∃ (t : State) (left : List (List Byte)), exec (.readBack n) s = .next t ∧
      t.results = s.results ++ [.ok (.bytes ((s.rx ++ fragments.flatten).take n))] ∧ t.busy = none ∧
      t.env = left.map EnvMove.deliver ++ es ∧ t.rx ++ left.flatten = (s.rx ++ fragments.flatten).drop n ∧
      SameRegisters s t ∧ t.wire = s.wire ∧ t.link = s.link ∧ t.rxClose = s.rxClose

/-- The close that comes before enough bytes, after any fragments: TransportError and an empty, closed stream
(43_session_ops.md R202; 20_memory.md R52). -/
def Obligations.CloseWhileReadingConsumesTheBytes : Prop :=
  ∀ (s : State) (n : Nat) (fragments : List (List Byte)) (es : List EnvMove),
    s.rxClose = false → s.env = fragments.map EnvMove.deliver ++ .close :: es →
    (s.rx ++ fragments.flatten).length < n →
    exec (.readBack n) s = .next { s with rx := [], rxClose := true, link := .closed, env := es, busy := none,
                                          results := s.results ++ [.error .transport] }

/-! ### The setters and the selector -/

/-- 43_session_ops.md R206. -/
def Obligations.SetSpiFormatWritesItsByte : Prop :=
  ∀ (s : State) (v : Nat),
    (v < 256 → exec (.setSpiFormat v) s = .next { s with spiFormat := BitVec.ofNat 8 v, busy := none,
                                                         results := s.results ++ [.ok .nothing] }) ∧
    (256 ≤ v → exec (.setSpiFormat v) s = .next { s with busy := none, results := s.results ++ [.error .encoding] })

/-- 43_session_ops.md R207. -/
def Obligations.SetAsicIdWritesItsByte : Prop :=
  ∀ (s : State) (v : Nat),
    (v < 256 → exec (.setAsicId v) s = .next { s with asicId := BitVec.ofNat 8 v, busy := none,
                                                      results := s.results ++ [.ok .nothing] }) ∧
    (256 ≤ v → exec (.setAsicId v) s = .next { s with busy := none, results := s.results ++ [.error .encoding] })

/-- 43_session_ops.md R208: the flag is set or cleared, and nothing else happens. -/
def Obligations.SetTraceWritesTheFlag : Prop :=
  ∀ (s : State) (b : Bool),
    exec (.setTrace b) s = .next { s with trace := b, busy := none, results := s.results ++ [.ok .nothing] }

/-- 20_memory.md R62 and 42_command_encoder.md R171: what the setters wrote is in the configuration bytes of the next
ASIC SPI command, the one that reads and the one that writes, whose payload starts with them. That SET_ASIC_ID exists is
the spec's decision D8. The write is stated where the bit-length policy does not refuse it (R164). -/
def Obligations.SettersAreSeenByTheNextCommand : Prop :=
  ∀ (s : State) (a f regAddr bitLength : Nat) (es : List EnvMove),
    a < 256 → f < 256 → regAddr < 65536 → bitLength < 65536 → s.link = .opened → s.env = .sendOk :: es →
    ∃ t u : State, exec (.setAsicId a) s = .next t ∧ exec (.setSpiFormat f) t = .next u ∧
      (∃ (v : State) (header : List Byte), exec (.readAsicSpiExRegister regAddr bitLength) u = .next v ∧
        header.length = 10 ∧
        v.wire = s.wire ++ header ++
          [BitVec.ofNat 8 a, BitVec.ofNat 8 f, BitVec.ofNat 8 (regAddr / 256), BitVec.ofNat 8 (regAddr % 256),
            BitVec.ofNat 8 (bitLength / 256), BitVec.ofNat 8 (bitLength % 256)]) ∧
      ∀ value, value < 256 → bitLengthRefused s.params.bitLengthPolicy bitLength = false →
        ∃ (v : State) (header : List Byte), exec (.writeAsicSpiRegister regAddr bitLength value) u = .next v ∧
          header.length = 10 ∧
          v.wire = s.wire ++ header ++
            [BitVec.ofNat 8 a, BitVec.ofNat 8 f, BitVec.ofNat 8 (regAddr / 256), BitVec.ofNat 8 (regAddr % 256),
              BitVec.ofNat 8 (bitLength / 256), BitVec.ofNat 8 (bitLength % 256), BitVec.ofNat 8 value]

/-- 30_encoding.md R92: an unassigned selector pattern is refused with EncodingError, with no I/O and no state
change. The map from patterns to operations is the OPEN parameter of R98 (log 10). -/
def Obligations.UnassignedSelectorIsRefused : Prop :=
  ∀ (s : State) (pattern : Nat) (x : PortOperands) (rest : List Request), s.busy = none →
    s.port = .selected pattern x :: rest → (∀ e ∈ s.params.selectorMap, e.2 ≠ pattern) →
    step s = .next { s with port := rest, busy := none, results := s.results ++ [.error .encoding] }

/-! ### Encoding -/

/-- 00_scope.md R10: byte i of `be_N(v)` is `v[8(N-i)-1 : 8(N-i-1)]`, there are N of them, and they read back as v. -/
def Obligations.BigEndianBytesReadBack : Prop :=
  ∀ (n v : Nat), v < 2 ^ (8 * n) →
    (be n v).length = n ∧ beNat (be n v) = v ∧
    ∀ i, i < n → (be n v)[i]? = some (BitVec.ofNat 8 (v / 2 ^ (8 * (n - i - 1))))

/-- Decoding what was encoded gives it back, for every well-formed command with every operand, under every value of the
registers its bytes are taken from, and whatever bytes follow (30_encoding.md R80 to R94): the operation, the count, the
two configuration bytes of the ASIC SPI commands (R87, R88) and none of the system-register commands (R85, R86); and the
bare header of ENCODE_HEADER likewise. -/
def Obligations.DecodeInvertsEncode : Prop :=
  (∀ (x : Implicit) (i : Instr) (rest : List Byte), i.emitsPacket = true → i.wellFormed = true →
    decodePacket (encode x i ++ rest) = .ok (⟨i, x.seq, configBytes x i⟩, rest)) ∧
  (∀ (x : Implicit) (address n value regAddr bitLength : Nat),
    configBytes x (.writeSysReg address n value) = none ∧ configBytes x (.readSysReg address) = none ∧
    configBytes x (.writeAsicSpiRegister regAddr bitLength value) = some (x.asicId, x.spiFormat) ∧
    configBytes x (.readAsicSpiExRegister regAddr bitLength) = some (x.asicId, x.spiFormat)) ∧
  ∀ (x : Implicit) (t d : Nat), t < 256 → d < 65536 →
    decode (encode x (.encodeHeader t d)) = .ok (⟨.encodeHeader t d, x.seq, none⟩, [])

/-- Every byte sequence the packet decoder accepts is the encoding of the operation it gives, which is well-formed and
emits a packet: no bit of a packet is dropped (30_encoding.md R80 to R92). -/
def Obligations.EncodeInvertsDecode : Prop :=
  ∀ (bs rest : List Byte) (d : Decoded), decodePacket bs = .ok (d, rest) →
    d.instr.emitsPacket = true ∧ d.instr.wellFormed = true ∧
    bs = encode ⟨d.count, (d.config.getD (0, 0)).1, (d.config.getD (0, 0)).2⟩ d.instr ++ rest

/-! ### The whole machine -/

/-- No FramingError, link and marker in agreement, host requests only, and only an operation that can block in
progress: every step keeps it, from every state (60_exceptions.md R221, R230, R238; 20_memory.md R67). -/
def Obligations.EveryStepKeepsSafeState : Prop :=
  ∀ s t : State, SafeState s → step s = .next t → SafeState t

/-- The machine right after reset is a safe state; the streams and the link there are the model's choice (log 6). -/
def Obligations.ResetIsASafeState : Prop := SafeState State.reset

/-- 42_command_encoder.md R168 and 40_header_codec.md R123 for whole runs: no run of host operations, from any safe
state, ever sees FramingError. -/
def Obligations.HostRunsNeverSeeFramingError : Prop :=
  ∀ s : State, SafeState s → SafeRun s

/-- 10_state.md R32: wire grows only, a closed link stays closed; and the parameters are fixed, and a step returns at
most one result after those returned before. -/
def Obligations.WireOnlyGrowsAndCloseIsForGood : Prop :=
  ∀ s t : State, step s = .next t →
    s.wire <+: t.wire ∧ (s.link = .closed → t.link = .closed) ∧ t.params = s.params ∧
    ∃ rs : List Result, t.results = s.results ++ rs ∧ rs.length ≤ 1

/-- 41_sequence_counter.md R142, R143, R145: of all steps of a host-driven machine but the reset event, only one that
put a whole packet carrying the count on the wire and returned OK moves SEQ, by one. -/
def Obligations.CounterMovesOnlyWithAWholePacket : Prop :=
  ∀ s t : State, HostDriven s → (s.busy = none → ∀ rest, s.port ≠ .reset :: rest) → step s = .next t →
    t.seq ≠ s.seq →
    t.seq = s.seq + 1 ∧ t.results = s.results ++ [.ok .nothing] ∧
    ∃ (p : List Byte) (d : Decoded), t.wire = s.wire ++ p ∧ decodePacket p = .ok (d, []) ∧ d.count = s.seq

/-- 60_exceptions.md R226: an operation that ends with an error leaves the registers as they were and the block idle,
and takes no request. -/
def Obligations.ErrorsLeaveTheRegistersAlone : Prop :=
  ∀ (i : Instr) (s t : State) (e : ErrorKind), exec i s = .next t → t.results = s.results ++ [.error e] →
    SameRegisters s t ∧ t.busy = none ∧ t.port = s.port ∧ t.params = s.params

/-- 41_sequence_counter.md R144 (with 20_memory.md R63): k commands, each sent whole, move SEQ by k modulo 16384 from
any value; and what they added to the wire splits by its length fields alone into exactly those commands, with
consecutive counts from the first. -/
def Obligations.SuccessfulSendsCountModulo16384 : Prop :=
  ∀ (s : State) (commands : List Instr),
    (∀ i ∈ commands, i.emitsPacket = true ∧ i.wellFormed = true) → s.params.bitLengthPolicy = .fixed1 →
    s.busy = none → s.link = .opened → s.port = commands.map Request.host →
    s.env = List.replicate commands.length EnvMove.sendOk →
    ∃ (t : State) (added : List Byte) (packets : List Decoded),
      Host.Core.run Sys2Proof.core commands.length s = .next t ∧
      t.seq.toNat = (s.seq.toNat + commands.length) % 16384 ∧
      t.wire = s.wire ++ added ∧ splitPackets commands.length added = some packets ∧
      packets.map Decoded.instr = commands ∧
      packets.map (fun d => d.count.toNat)
        = (List.range commands.length).map (fun j => (s.seq.toNat + j) % 16384)

/-- 41_sequence_counter.md R144 for every run of host operations, whatever failed commands, READ_BACKs and setters lie
between the successful sends and whatever the environment does: when the last operation has ended, SEQ has moved by the
number of commands that ended with OK, modulo 16384; and each of those put one packet on the wire, with consecutive counts
from the first. Each operation has one result, in issue order (00_scope.md R13, 20_memory.md R59; the list of results is
log 4). That what any other command left on the wire is less than a whole packet is 20_memory.md R65 and
42_command_encoder.md R169, the spec's decision D10 (log 11). -/
def Obligations.HostRunsAccountForTheirPackets : Prop :=
  ∀ (s t : State) (ops : List Instr) (n : Nat),
    (∀ i ∈ ops, i.isInternal = false) → s.busy = none → s.port = ops.map Request.host →
    Host.Core.run Sys2Proof.core n s = .next t → t.busy = none → t.port = [] →
    ∃ (rs : List Result) (pieces : List (List Byte)),
      t.results = s.results ++ rs ∧ t.wire = s.wire ++ pieces.flatten ∧ RunAccount s.seq ops rs pieces t.seq ∧
      t.seq.toNat = (s.seq.toNat + sentCount ops rs) % 16384

/-- 10_state.md R24: nothing but SET_TRACE and reset depends on TRACE or changes it. Two machines that differ in TRACE
only do the same. -/
def Obligations.TraceHasNoEffect : Prop :=
  ∀ (i : Instr) (s : State) (b : Bool), (∀ c, i ≠ .setTrace c) →
    (∀ t, exec i s = .next t → exec i { s with trace := b } = .next { t with trace := b }) ∧
    (∀ r, exec i s = .refused r → exec i { s with trace := b } = .refused r)

/-- 42_command_encoder.md R171: the two system-register commands read neither configuration byte. -/
def Obligations.SysRegCommandsReadNoConfiguration : Prop :=
  ∀ (i : Instr) (s t : State) (a f : Byte),
    ((∃ address n value, i = .writeSysReg address n value) ∨ ∃ address, i = .readSysReg address) →
    exec i s = .next t →
    exec i { s with asicId := a, spiFormat := f } = .next { t with asicId := a, spiFormat := f }

/-! ### The byte-serial realisation -/

/-- 70_reset_and_hazards.md R268 for the machine of R267: from every state that meets the invariant and for every
input, one step of the control state machine keeps it; and from every state whatever, COMMIT is entered only from WAIT with
the transport's ok and no fail, and SEQ changes only in COMMIT, by one: SEQ advances only after the transport confirmed.
Both rules are informative; the machine is log 16. -/
def Obligations.SerialStepKeepsItsInvariant : Prop :=
  (∀ (x : SerialIn) (b : SerialBlock), SerialInv b → SerialInv (serialStep x b)) ∧
  ∀ (x : SerialIn) (b : SerialBlock),
    ((serialStep x b).phase = .commit → b.phase = .wait ∧ x.txOk = true ∧ x.txFail = false) ∧
    ((serialStep x b).seq ≠ b.seq → b.phase = .commit ∧ (serialStep x b).seq = b.seq + 1)

/-- The byte-serial block at IDLE meets its invariant, with the registers of any state (log 16). -/
def Obligations.SerialIdleMeetsItsInvariant : Prop := ∀ s : State, SerialInv (serialOf s)

/-- The byte-serial realisation of a packet-emitting command does what `exec` does in one step (R268), under the policy
`fixed1` and on an open link: where it reaches DONE, whatever the ports did, there is an answer of the transport under
which `exec` of the command, from the state whose registers the block started with, gives the same result, the registers
the block ends with, and these bytes on the wire. OK answers to `sendOk`, with all the bytes handed over, which are the
command's encoding. TransportError answers to every `sendFail k` that has no more bytes on the wire than were handed over
and not the whole packet (R65, R169: a fail in WAIT comes after the last byte was handed over, and the wire still holds a
strict prefix, the spec's decision D10). EncodingError needs no answer. The byte-serial machine, its order of inputs and
`fixed1` are log 16. -/
def Obligations.SerialCommandRefinesTheStep : Prop :=
  ∀ (s : State) (es : List EnvMove) (op : HostOp) (operands : PortOperands) (x : SerialIn) (xs : List SerialIn)
    (r : Result),
    s.params.bitLengthPolicy = .fixed1 → s.link = .opened →
    (portInstr op operands).emitsPacket = true → x.start = some (op, operands) → (∀ y ∈ xs, y.start = none) →
    (serialRun (x :: xs) (serialOf s)).phase = .done r →
    let i := portInstr op operands
    let b := serialRun (x :: xs) (serialOf s)
    let p := encode s.implicit i
    let after : List Byte → State := fun sent =>
      { s with seq := b.seq, asicId := b.asicId, spiFormat := b.spiFormat, trace := b.trace, env := es, busy := none,
               wire := s.wire ++ sent, results := s.results ++ [r] }
    b.asicId = s.asicId ∧ b.spiFormat = s.spiFormat ∧ b.trace = s.trace ∧
    ((r = .ok .nothing ∧ b.handed = p ∧ b.seq = s.seq + 1 ∧
        exec i { s with env := .sendOk :: es } = .next (after b.handed)) ∨
      (r = .error .transport ∧ b.handed <+: p ∧ b.seq = s.seq ∧
        ∀ k, k ≤ b.handed.length → k < p.length →
          exec i { s with env := .sendFail k :: es } = .next (after (b.handed.take k))) ∨
      (r = .error .encoding ∧ b.handed = [] ∧ b.seq = s.seq ∧ exec i { s with env := es } = .next (after [])))
end

