-- ==== Sys2Proof/Laws/Decode.lean ====
section
/-! SUPPORT. The small lemmas of byte order (00_scope.md R10) and of the header (30_encoding.md R81, R82, R94). -/

namespace Sys2Proof

@[simp] theorem be_zero (v : Nat) : be 0 v = [] := rfl

theorem be_succ (n v : Nat) : be (n + 1) v = BitVec.ofNat 8 (v / 2 ^ (8 * n)) :: be n v := rfl

@[simp] theorem be_length (n v : Nat) : (be n v).length = n := by
  induction n with
  | zero => rfl
  | succ n ih => simp [be_succ, ih]

@[simp] theorem le_length (n v : Nat) : (le n v).length = n := by
  induction n generalizing v with
  | zero => rfl
  | succ n ih => simp [le, ih]

theorem be_two (v : Nat) : be 2 v = [BitVec.ofNat 8 (v / 256), BitVec.ofNat 8 v] := by
  simp [be_succ]

theorem beNatFrom_eq (acc : Nat) (bs : List Byte) :
    beNatFrom acc bs = acc * 256 ^ bs.length + beNat bs := by
  induction bs generalizing acc with
  | nil => simp [beNatFrom, beNat]
  | cons b bs ih =>
    have h : beNat (b :: bs) = beNatFrom b.toNat bs := by simp [beNat, beNatFrom]
    rw [h, beNatFrom, ih (acc * 256 + b.toNat), ih b.toNat, List.length_cons, pow_succ]
    ring

theorem beNat_cons (b : Byte) (bs : List Byte) : beNat (b :: bs) = b.toNat * 256 ^ bs.length + beNat bs := by
  rw [← beNatFrom_eq]; simp [beNat, beNatFrom]

@[simp] theorem beNat_nil : beNat [] = 0 := rfl

theorem beNat_lt (bs : List Byte) : beNat bs < 256 ^ bs.length := by
  induction bs with
  | nil => simp
  | cons b bs ih =>
    have hb : b.toNat ≤ 255 := by have := b.isLt; omega
    have hm : b.toNat * 256 ^ bs.length ≤ 255 * 256 ^ bs.length := Nat.mul_le_mul_right _ hb
    rw [beNat_cons, List.length_cons, pow_succ]
    omega

theorem two_pow_eight_mul (n : Nat) : 2 ^ (8 * n) = 256 ^ n := by
  rw [pow_mul]; norm_num

/-- Reading back what `be` wrote (R10). -/
theorem beNat_be (n v : Nat) : beNat (be n v) = v % 256 ^ n := by
  induction n with
  | zero => simp [Nat.mod_one]
  | succ n ih =>
    have hp : 256 ^ (n + 1) = 256 ^ n * 256 := pow_succ 256 n
    rw [be_succ, beNat_cons, ih, be_length, two_pow_eight_mul, BitVec.toNat_ofNat, hp, Nat.mod_mul, Nat.add_comm,
      Nat.mul_comm]

theorem be_congr {n v w : Nat} (h : v % 256 ^ n = w % 256 ^ n) : be n v = be n w := by
  induction n with
  | zero => rfl
  | succ n ih =>
    have hq : v / 256 ^ n % 256 = w / 256 ^ n % 256 := by
      rw [pow_succ, Nat.mod_mul, Nat.mod_mul] at h
      have hv : v % 256 ^ n < 256 ^ n := Nat.mod_lt _ (by positivity)
      have hw : w % 256 ^ n < 256 ^ n := Nat.mod_lt _ (by positivity)
      have := congrArg (· / 256 ^ n) h
      simpa [Nat.add_mul_div_left, Nat.div_eq_of_lt hv, Nat.div_eq_of_lt hw] using this
    have hr : v % 256 ^ n = w % 256 ^ n := by
      have := congrArg (· % 256 ^ n) h
      simpa [pow_succ, Nat.mod_mul_right_mod] using this
    have hb : BitVec.ofNat 8 (v / 2 ^ (8 * n)) = BitVec.ofNat 8 (w / 2 ^ (8 * n)) := by
      apply BitVec.eq_of_toNat_eq
      simpa [two_pow_eight_mul] using hq
    rw [be_succ, be_succ, hb, ih hr]

/-- Writing back what was read (R10). -/
theorem be_beNat (bs : List Byte) : be bs.length (beNat bs) = bs := by
  induction bs with
  | nil => rfl
  | cons b bs ih =>
    have hlt := beNat_lt bs
    have hd : (b.toNat * 256 ^ bs.length + beNat bs) / 256 ^ bs.length = b.toNat := by
      rw [Nat.add_comm, Nat.add_mul_div_right _ _ (by positivity), Nat.div_eq_of_lt hlt, Nat.zero_add]
    have ht : be bs.length (b.toNat * 256 ^ bs.length + beNat bs) = be bs.length (beNat bs) :=
      be_congr (by simp)
    rw [List.length_cons, be_succ, beNat_cons, two_pow_eight_mul, hd, ht, ih, BitVec.ofNat_toNat, BitVec.setWidth_eq]

@[simp] theorem headerBytes_length (t : Byte) (c : Count) (d : BitVec 16) : (headerBytes t c d).length = 10 := rfl

/-- The header bytes as numbers: the byte table of R82 with the constants at 0 (R128). -/
theorem headerBytes_eq (t : Byte) (c : Count) (d : BitVec 16) :
    headerBytes t c d =
      [0x00#8, t, BitVec.ofNat 8 (c.toNat / 256), BitVec.ofNat 8 c.toNat, 0x00#8, 0x00#8, 0x00#8, 0x00#8,
        BitVec.ofNat 8 (d.toNat / 256), BitVec.ofNat 8 d.toNat] := by
  have h2 : Config.sequencerFlag ++ c.extractLsb' 8 6 = BitVec.ofNat 8 (c.toNat / 256) := by
    apply BitVec.eq_of_toNat_eq
    have := c.isLt
    simp only [Config.sequencerFlag, BitVec.toNat_append, BitVec.toNat_ofNat, BitVec.extractLsb'_toNat, Nat.zero_mod,
      Nat.zero_shiftLeft, Nat.zero_or, Nat.shiftRight_eq_div_pow]
    omega
  have h3 : c.extractLsb' 0 8 = BitVec.ofNat 8 c.toNat := by
    apply BitVec.eq_of_toNat_eq; simp
  have h8 : d.extractLsb' 8 8 = BitVec.ofNat 8 (d.toNat / 256) := by
    apply BitVec.eq_of_toNat_eq; simp [Nat.shiftRight_eq_div_pow]
  have h9 : d.extractLsb' 0 8 = BitVec.ofNat 8 d.toNat := by
    apply BitVec.eq_of_toNat_eq; simp
  unfold headerBytes
  rw [h2, h3, h8, h9]
  rfl

/-- The number ten header bytes stand for: `packet_type * 2^64 + packet_count * 2^48 + data_length` (R81). -/
theorem beNat_headerBytes (t : Byte) (c : Count) (d : BitVec 16) :
    beNat (headerBytes t c d) = t.toNat * 2 ^ 64 + c.toNat * 2 ^ 48 + d.toNat := by
  have := c.isLt
  have := d.isLt
  rw [headerBytes_eq]
  simp [beNat_cons]
  omega

/-- A field of an 80-bit number (R9: `v[hi:lo]`). -/
theorem extractLsb'_ofNat_eq {v lo len : Nat} {x : BitVec len} (n : Nat) (hx : x.toNat = n) (hv : v < 2 ^ 80)
    (h : v / 2 ^ lo % 2 ^ len = n) : (BitVec.ofNat 80 v).extractLsb' lo len = x := by
  apply BitVec.eq_of_toNat_eq
  rw [BitVec.extractLsb'_toNat, BitVec.toNat_ofNat, Nat.shiftRight_eq_div_pow, Nat.mod_eq_of_lt hv, h, hx]

/-- The parse of a header that was built gives its fields back (R94). -/
theorem decodeHeader_headerBytes (t : Byte) (c : Count) (d : BitVec 16) :
    decodeHeader (headerBytes t c d) = some ⟨0#3, 0#5, t, 0#2, c, 0#32, d⟩ := by
  have ht := t.isLt
  have hc := c.isLt
  have hd := d.isLt
  have hv : t.toNat * 2 ^ 64 + c.toNat * 2 ^ 48 + d.toNat < 2 ^ 80 := by omega
  have h : headerOfBits (BitVec.ofNat 80 (beNat (headerBytes t c d))) = ⟨0#3, 0#5, t, 0#2, c, 0#32, d⟩ := by
    rw [beNat_headerBytes]
    simp only [headerOfBits, Header.mk.injEq]
    refine ⟨extractLsb'_ofNat_eq 0 rfl hv ?_, extractLsb'_ofNat_eq 0 rfl hv ?_, extractLsb'_ofNat_eq _ rfl hv ?_,
      extractLsb'_ofNat_eq 0 rfl hv ?_, extractLsb'_ofNat_eq _ rfl hv ?_, extractLsb'_ofNat_eq 0 rfl hv ?_,
      extractLsb'_ofNat_eq _ rfl hv ?_⟩ <;> omega
  rw [decodeHeader, if_pos (headerBytes_length t c d), h]

/-- Packing to a field the width of the operand loses nothing. -/
theorem toNat_ofNat_of_lt {w v : Nat} (h : v < 2 ^ w) : (BitVec.ofNat w v).toNat = v := by
  simp [Nat.mod_eq_of_lt h]

end Sys2Proof
end

