-- ==== Sys2Proof/Laws/State.lean ====
section
/-! SUPPORT. One lemma for each field of State under each update of Machine/Ops.lean, so that no proof unfolds a record
update. -/

namespace Sys2Proof.Machine

variable (s : State)

@[simp] theorem writeSeq_seq (c : Count) : (writeSeq c s).seq = c := rfl
@[simp] theorem writeSeq_asicId (c : Count) : (writeSeq c s).asicId = s.asicId := rfl
@[simp] theorem writeSeq_spiFormat (c : Count) : (writeSeq c s).spiFormat = s.spiFormat := rfl
@[simp] theorem writeSeq_trace (c : Count) : (writeSeq c s).trace = s.trace := rfl
@[simp] theorem writeSeq_busy (c : Count) : (writeSeq c s).busy = s.busy := rfl
@[simp] theorem writeSeq_wire (c : Count) : (writeSeq c s).wire = s.wire := rfl
@[simp] theorem writeSeq_rx (c : Count) : (writeSeq c s).rx = s.rx := rfl
@[simp] theorem writeSeq_rxClose (c : Count) : (writeSeq c s).rxClose = s.rxClose := rfl
@[simp] theorem writeSeq_link (c : Count) : (writeSeq c s).link = s.link := rfl
@[simp] theorem writeSeq_env (c : Count) : (writeSeq c s).env = s.env := rfl
@[simp] theorem writeSeq_port (c : Count) : (writeSeq c s).port = s.port := rfl
@[simp] theorem writeSeq_results (c : Count) : (writeSeq c s).results = s.results := rfl
@[simp] theorem writeSeq_params (c : Count) : (writeSeq c s).params = s.params := rfl

@[simp] theorem writeAsicId_seq (b : Byte) : (writeAsicId b s).seq = s.seq := rfl
@[simp] theorem writeAsicId_asicId (b : Byte) : (writeAsicId b s).asicId = b := rfl
@[simp] theorem writeAsicId_spiFormat (b : Byte) : (writeAsicId b s).spiFormat = s.spiFormat := rfl
@[simp] theorem writeAsicId_trace (b : Byte) : (writeAsicId b s).trace = s.trace := rfl
@[simp] theorem writeAsicId_busy (b : Byte) : (writeAsicId b s).busy = s.busy := rfl
@[simp] theorem writeAsicId_wire (b : Byte) : (writeAsicId b s).wire = s.wire := rfl
@[simp] theorem writeAsicId_rx (b : Byte) : (writeAsicId b s).rx = s.rx := rfl
@[simp] theorem writeAsicId_rxClose (b : Byte) : (writeAsicId b s).rxClose = s.rxClose := rfl
@[simp] theorem writeAsicId_link (b : Byte) : (writeAsicId b s).link = s.link := rfl
@[simp] theorem writeAsicId_env (b : Byte) : (writeAsicId b s).env = s.env := rfl
@[simp] theorem writeAsicId_port (b : Byte) : (writeAsicId b s).port = s.port := rfl
@[simp] theorem writeAsicId_results (b : Byte) : (writeAsicId b s).results = s.results := rfl
@[simp] theorem writeAsicId_params (b : Byte) : (writeAsicId b s).params = s.params := rfl

@[simp] theorem writeSpiFormat_seq (b : Byte) : (writeSpiFormat b s).seq = s.seq := rfl
@[simp] theorem writeSpiFormat_asicId (b : Byte) : (writeSpiFormat b s).asicId = s.asicId := rfl
@[simp] theorem writeSpiFormat_spiFormat (b : Byte) : (writeSpiFormat b s).spiFormat = b := rfl
@[simp] theorem writeSpiFormat_trace (b : Byte) : (writeSpiFormat b s).trace = s.trace := rfl
@[simp] theorem writeSpiFormat_busy (b : Byte) : (writeSpiFormat b s).busy = s.busy := rfl
@[simp] theorem writeSpiFormat_wire (b : Byte) : (writeSpiFormat b s).wire = s.wire := rfl
@[simp] theorem writeSpiFormat_rx (b : Byte) : (writeSpiFormat b s).rx = s.rx := rfl
@[simp] theorem writeSpiFormat_rxClose (b : Byte) : (writeSpiFormat b s).rxClose = s.rxClose := rfl
@[simp] theorem writeSpiFormat_link (b : Byte) : (writeSpiFormat b s).link = s.link := rfl
@[simp] theorem writeSpiFormat_env (b : Byte) : (writeSpiFormat b s).env = s.env := rfl
@[simp] theorem writeSpiFormat_port (b : Byte) : (writeSpiFormat b s).port = s.port := rfl
@[simp] theorem writeSpiFormat_results (b : Byte) : (writeSpiFormat b s).results = s.results := rfl
@[simp] theorem writeSpiFormat_params (b : Byte) : (writeSpiFormat b s).params = s.params := rfl

@[simp] theorem writeTrace_seq (b : Bool) : (writeTrace b s).seq = s.seq := rfl
@[simp] theorem writeTrace_asicId (b : Bool) : (writeTrace b s).asicId = s.asicId := rfl
@[simp] theorem writeTrace_spiFormat (b : Bool) : (writeTrace b s).spiFormat = s.spiFormat := rfl
@[simp] theorem writeTrace_trace (b : Bool) : (writeTrace b s).trace = b := rfl
@[simp] theorem writeTrace_busy (b : Bool) : (writeTrace b s).busy = s.busy := rfl
@[simp] theorem writeTrace_wire (b : Bool) : (writeTrace b s).wire = s.wire := rfl
@[simp] theorem writeTrace_rx (b : Bool) : (writeTrace b s).rx = s.rx := rfl
@[simp] theorem writeTrace_rxClose (b : Bool) : (writeTrace b s).rxClose = s.rxClose := rfl
@[simp] theorem writeTrace_link (b : Bool) : (writeTrace b s).link = s.link := rfl
@[simp] theorem writeTrace_env (b : Bool) : (writeTrace b s).env = s.env := rfl
@[simp] theorem writeTrace_port (b : Bool) : (writeTrace b s).port = s.port := rfl
@[simp] theorem writeTrace_results (b : Bool) : (writeTrace b s).results = s.results := rfl
@[simp] theorem writeTrace_params (b : Bool) : (writeTrace b s).params = s.params := rfl

@[simp] theorem finish_seq (v : Value) : (finish v s).seq = s.seq := rfl
@[simp] theorem finish_asicId (v : Value) : (finish v s).asicId = s.asicId := rfl
@[simp] theorem finish_spiFormat (v : Value) : (finish v s).spiFormat = s.spiFormat := rfl
@[simp] theorem finish_trace (v : Value) : (finish v s).trace = s.trace := rfl
@[simp] theorem finish_busy (v : Value) : (finish v s).busy = none := rfl
@[simp] theorem finish_wire (v : Value) : (finish v s).wire = s.wire := rfl
@[simp] theorem finish_rx (v : Value) : (finish v s).rx = s.rx := rfl
@[simp] theorem finish_rxClose (v : Value) : (finish v s).rxClose = s.rxClose := rfl
@[simp] theorem finish_link (v : Value) : (finish v s).link = s.link := rfl
@[simp] theorem finish_env (v : Value) : (finish v s).env = s.env := rfl
@[simp] theorem finish_port (v : Value) : (finish v s).port = s.port := rfl
@[simp] theorem finish_results (v : Value) : (finish v s).results = s.results ++ [.ok v] := rfl
@[simp] theorem finish_params (v : Value) : (finish v s).params = s.params := rfl

@[simp] theorem raise_seq (e : ErrorKind) : (raise e s).seq = s.seq := rfl
@[simp] theorem raise_asicId (e : ErrorKind) : (raise e s).asicId = s.asicId := rfl
@[simp] theorem raise_spiFormat (e : ErrorKind) : (raise e s).spiFormat = s.spiFormat := rfl
@[simp] theorem raise_trace (e : ErrorKind) : (raise e s).trace = s.trace := rfl
@[simp] theorem raise_busy (e : ErrorKind) : (raise e s).busy = none := rfl
@[simp] theorem raise_wire (e : ErrorKind) : (raise e s).wire = s.wire := rfl
@[simp] theorem raise_rx (e : ErrorKind) : (raise e s).rx = s.rx := rfl
@[simp] theorem raise_rxClose (e : ErrorKind) : (raise e s).rxClose = s.rxClose := rfl
@[simp] theorem raise_link (e : ErrorKind) : (raise e s).link = s.link := rfl
@[simp] theorem raise_env (e : ErrorKind) : (raise e s).env = s.env := rfl
@[simp] theorem raise_port (e : ErrorKind) : (raise e s).port = s.port := rfl
@[simp] theorem raise_results (e : ErrorKind) : (raise e s).results = s.results ++ [.error e] := rfl
@[simp] theorem raise_params (e : ErrorKind) : (raise e s).params = s.params := rfl

@[simp] theorem setPort_seq (rs : List Request) : (setPort rs s).seq = s.seq := rfl
@[simp] theorem setPort_asicId (rs : List Request) : (setPort rs s).asicId = s.asicId := rfl
@[simp] theorem setPort_spiFormat (rs : List Request) : (setPort rs s).spiFormat = s.spiFormat := rfl
@[simp] theorem setPort_trace (rs : List Request) : (setPort rs s).trace = s.trace := rfl
@[simp] theorem setPort_busy (rs : List Request) : (setPort rs s).busy = s.busy := rfl
@[simp] theorem setPort_wire (rs : List Request) : (setPort rs s).wire = s.wire := rfl
@[simp] theorem setPort_rx (rs : List Request) : (setPort rs s).rx = s.rx := rfl
@[simp] theorem setPort_rxClose (rs : List Request) : (setPort rs s).rxClose = s.rxClose := rfl
@[simp] theorem setPort_link (rs : List Request) : (setPort rs s).link = s.link := rfl
@[simp] theorem setPort_env (rs : List Request) : (setPort rs s).env = s.env := rfl
@[simp] theorem setPort_port (rs : List Request) : (setPort rs s).port = rs := rfl
@[simp] theorem setPort_results (rs : List Request) : (setPort rs s).results = s.results := rfl
@[simp] theorem setPort_params (rs : List Request) : (setPort rs s).params = s.params := rfl

@[simp] theorem hold_seq (i : Instr) : (hold i s).seq = s.seq := rfl
@[simp] theorem hold_asicId (i : Instr) : (hold i s).asicId = s.asicId := rfl
@[simp] theorem hold_spiFormat (i : Instr) : (hold i s).spiFormat = s.spiFormat := rfl
@[simp] theorem hold_trace (i : Instr) : (hold i s).trace = s.trace := rfl
@[simp] theorem hold_busy (i : Instr) : (hold i s).busy = some i := rfl
@[simp] theorem hold_wire (i : Instr) : (hold i s).wire = s.wire := rfl
@[simp] theorem hold_rx (i : Instr) : (hold i s).rx = s.rx := rfl
@[simp] theorem hold_rxClose (i : Instr) : (hold i s).rxClose = s.rxClose := rfl
@[simp] theorem hold_link (i : Instr) : (hold i s).link = s.link := rfl
@[simp] theorem hold_env (i : Instr) : (hold i s).env = s.env := rfl
@[simp] theorem hold_port (i : Instr) : (hold i s).port = s.port := rfl
@[simp] theorem hold_results (i : Instr) : (hold i s).results = s.results := rfl
@[simp] theorem hold_params (i : Instr) : (hold i s).params = s.params := rfl

@[simp] theorem setEnv_seq (es : List EnvMove) : (setEnv es s).seq = s.seq := rfl
@[simp] theorem setEnv_asicId (es : List EnvMove) : (setEnv es s).asicId = s.asicId := rfl
@[simp] theorem setEnv_spiFormat (es : List EnvMove) : (setEnv es s).spiFormat = s.spiFormat := rfl
@[simp] theorem setEnv_trace (es : List EnvMove) : (setEnv es s).trace = s.trace := rfl
@[simp] theorem setEnv_busy (es : List EnvMove) : (setEnv es s).busy = s.busy := rfl
@[simp] theorem setEnv_wire (es : List EnvMove) : (setEnv es s).wire = s.wire := rfl
@[simp] theorem setEnv_rx (es : List EnvMove) : (setEnv es s).rx = s.rx := rfl
@[simp] theorem setEnv_rxClose (es : List EnvMove) : (setEnv es s).rxClose = s.rxClose := rfl
@[simp] theorem setEnv_link (es : List EnvMove) : (setEnv es s).link = s.link := rfl
@[simp] theorem setEnv_env (es : List EnvMove) : (setEnv es s).env = es := rfl
@[simp] theorem setEnv_port (es : List EnvMove) : (setEnv es s).port = s.port := rfl
@[simp] theorem setEnv_results (es : List EnvMove) : (setEnv es s).results = s.results := rfl
@[simp] theorem setEnv_params (es : List EnvMove) : (setEnv es s).params = s.params := rfl

@[simp] theorem closeLink_seq : (closeLink s).seq = s.seq := rfl
@[simp] theorem closeLink_asicId : (closeLink s).asicId = s.asicId := rfl
@[simp] theorem closeLink_spiFormat : (closeLink s).spiFormat = s.spiFormat := rfl
@[simp] theorem closeLink_trace : (closeLink s).trace = s.trace := rfl
@[simp] theorem closeLink_busy : (closeLink s).busy = s.busy := rfl
@[simp] theorem closeLink_wire : (closeLink s).wire = s.wire := rfl
@[simp] theorem closeLink_rx : (closeLink s).rx = s.rx := rfl
@[simp] theorem closeLink_rxClose : (closeLink s).rxClose = true := rfl
@[simp] theorem closeLink_link : (closeLink s).link = .closed := rfl
@[simp] theorem closeLink_env : (closeLink s).env = s.env := rfl
@[simp] theorem closeLink_port : (closeLink s).port = s.port := rfl
@[simp] theorem closeLink_results : (closeLink s).results = s.results := rfl
@[simp] theorem closeLink_params : (closeLink s).params = s.params := rfl

@[simp] theorem accepted_seq (p : List Byte) : (accepted p s).seq = s.seq := rfl
@[simp] theorem accepted_asicId (p : List Byte) : (accepted p s).asicId = s.asicId := rfl
@[simp] theorem accepted_spiFormat (p : List Byte) : (accepted p s).spiFormat = s.spiFormat := rfl
@[simp] theorem accepted_trace (p : List Byte) : (accepted p s).trace = s.trace := rfl
@[simp] theorem accepted_busy (p : List Byte) : (accepted p s).busy = s.busy := rfl
@[simp] theorem accepted_wire (p : List Byte) : (accepted p s).wire = s.wire ++ p := rfl
@[simp] theorem accepted_rx (p : List Byte) : (accepted p s).rx = s.rx := rfl
@[simp] theorem accepted_rxClose (p : List Byte) : (accepted p s).rxClose = s.rxClose := rfl
@[simp] theorem accepted_link (p : List Byte) : (accepted p s).link = s.link := rfl
@[simp] theorem accepted_env (p : List Byte) : (accepted p s).env = s.env := rfl
@[simp] theorem accepted_port (p : List Byte) : (accepted p s).port = s.port := rfl
@[simp] theorem accepted_results (p : List Byte) : (accepted p s).results = s.results := rfl
@[simp] theorem accepted_params (p : List Byte) : (accepted p s).params = s.params := rfl

@[simp] theorem setRx_seq (bs : List Byte) : (setRx bs s).seq = s.seq := rfl
@[simp] theorem setRx_asicId (bs : List Byte) : (setRx bs s).asicId = s.asicId := rfl
@[simp] theorem setRx_spiFormat (bs : List Byte) : (setRx bs s).spiFormat = s.spiFormat := rfl
@[simp] theorem setRx_trace (bs : List Byte) : (setRx bs s).trace = s.trace := rfl
@[simp] theorem setRx_busy (bs : List Byte) : (setRx bs s).busy = s.busy := rfl
@[simp] theorem setRx_wire (bs : List Byte) : (setRx bs s).wire = s.wire := rfl
@[simp] theorem setRx_rx (bs : List Byte) : (setRx bs s).rx = bs := rfl
@[simp] theorem setRx_rxClose (bs : List Byte) : (setRx bs s).rxClose = s.rxClose := rfl
@[simp] theorem setRx_link (bs : List Byte) : (setRx bs s).link = s.link := rfl
@[simp] theorem setRx_env (bs : List Byte) : (setRx bs s).env = s.env := rfl
@[simp] theorem setRx_port (bs : List Byte) : (setRx bs s).port = s.port := rfl
@[simp] theorem setRx_results (bs : List Byte) : (setRx bs s).results = s.results := rfl
@[simp] theorem setRx_params (bs : List Byte) : (setRx bs s).params = s.params := rfl

@[simp] theorem advanceSeq_seq : (advanceSeq s).seq = s.seq + 1#14 := rfl
@[simp] theorem advanceSeq_asicId : (advanceSeq s).asicId = s.asicId := rfl
@[simp] theorem advanceSeq_spiFormat : (advanceSeq s).spiFormat = s.spiFormat := rfl
@[simp] theorem advanceSeq_trace : (advanceSeq s).trace = s.trace := rfl
@[simp] theorem advanceSeq_busy : (advanceSeq s).busy = s.busy := rfl
@[simp] theorem advanceSeq_wire : (advanceSeq s).wire = s.wire := rfl
@[simp] theorem advanceSeq_rx : (advanceSeq s).rx = s.rx := rfl
@[simp] theorem advanceSeq_rxClose : (advanceSeq s).rxClose = s.rxClose := rfl
@[simp] theorem advanceSeq_link : (advanceSeq s).link = s.link := rfl
@[simp] theorem advanceSeq_env : (advanceSeq s).env = s.env := rfl
@[simp] theorem advanceSeq_port : (advanceSeq s).port = s.port := rfl
@[simp] theorem advanceSeq_results : (advanceSeq s).results = s.results := rfl
@[simp] theorem advanceSeq_params : (advanceSeq s).params = s.params := rfl

@[simp] theorem resetRegisters_seq : (resetRegisters s).seq = 0#14 := rfl
@[simp] theorem resetRegisters_asicId : (resetRegisters s).asicId = s.params.asicIdInit := rfl
@[simp] theorem resetRegisters_spiFormat : (resetRegisters s).spiFormat = s.params.spiFormatInit := rfl
@[simp] theorem resetRegisters_trace : (resetRegisters s).trace = s.params.traceInit := rfl
@[simp] theorem resetRegisters_busy : (resetRegisters s).busy = s.busy := rfl
@[simp] theorem resetRegisters_wire : (resetRegisters s).wire = s.wire := rfl
@[simp] theorem resetRegisters_rx : (resetRegisters s).rx = s.rx := rfl
@[simp] theorem resetRegisters_rxClose : (resetRegisters s).rxClose = s.rxClose := rfl
@[simp] theorem resetRegisters_link : (resetRegisters s).link = s.link := rfl
@[simp] theorem resetRegisters_env : (resetRegisters s).env = s.env := rfl
@[simp] theorem resetRegisters_port : (resetRegisters s).port = s.port := rfl
@[simp] theorem resetRegisters_results : (resetRegisters s).results = s.results := rfl
@[simp] theorem resetRegisters_params : (resetRegisters s).params = s.params := rfl

@[simp] theorem deliver_seq (bs : List Byte) : (deliver bs s).seq = s.seq := rfl
@[simp] theorem deliver_asicId (bs : List Byte) : (deliver bs s).asicId = s.asicId := rfl
@[simp] theorem deliver_spiFormat (bs : List Byte) : (deliver bs s).spiFormat = s.spiFormat := rfl
@[simp] theorem deliver_trace (bs : List Byte) : (deliver bs s).trace = s.trace := rfl
@[simp] theorem deliver_busy (bs : List Byte) : (deliver bs s).busy = s.busy := rfl
@[simp] theorem deliver_wire (bs : List Byte) : (deliver bs s).wire = s.wire := rfl
theorem deliver_rx (bs : List Byte) : (deliver bs s).rx = if s.rxClose then s.rx else s.rx ++ bs := rfl
@[simp] theorem deliver_rx_open (bs : List Byte) (h : s.rxClose = false) : (deliver bs s).rx = s.rx ++ bs := by
  simp [deliver_rx, h]
@[simp] theorem deliver_rxClose (bs : List Byte) : (deliver bs s).rxClose = s.rxClose := rfl
@[simp] theorem deliver_link (bs : List Byte) : (deliver bs s).link = s.link := rfl
@[simp] theorem deliver_env (bs : List Byte) : (deliver bs s).env = s.env := rfl
@[simp] theorem deliver_port (bs : List Byte) : (deliver bs s).port = s.port := rfl
@[simp] theorem deliver_results (bs : List Byte) : (deliver bs s).results = s.results := rfl
@[simp] theorem deliver_params (bs : List Byte) : (deliver bs s).params = s.params := rfl

end Sys2Proof.Machine
end

