-- ==== Sys2Proof/Laws/Ops.lean ====
section
/-! SUPPORT. What each shared operation of Machine/Ops.lean can do, said once: the width checks, the two transport
primitives, the header encoder and SEND_COMMAND. -/

namespace Sys2Proof.Machine

/-! ### Width checks -/

@[simp] theorem fits_iff (v n : Nat) : fits v n = true ↔ v < 2 ^ n := by
  simp [fits]

/-- The machine's validation (R166) and the well-formedness of the syntax say the same of every host operation. -/
theorem operandsFit_eq_wellFormed (i : Instr) (h : ∀ t d, i ≠ .encodeHeader t d) : operandsFit i = i.wellFormed := by
  cases i <;> simp_all [operandsFit, Instr.wellFormed, fits, two_pow_eight_mul]

/-! ### What a wait for the environment leaves alone -/

/-- Nothing but the streams, the link and the moves still to come may differ. -/
structure SameBlock (s t : State) : Prop where
  seq : t.seq = s.seq
  asicId : t.asicId = s.asicId
  spiFormat : t.spiFormat = s.spiFormat
  trace : t.trace = s.trace
  busy : t.busy = s.busy
  port : t.port = s.port
  results : t.results = s.results
  params : t.params = s.params

theorem SameBlock.refl (s : State) : SameBlock s s := ⟨rfl, rfl, rfl, rfl, rfl, rfl, rfl, rfl⟩

theorem SameBlock.trans {s t u : State} (h : SameBlock s t) (k : SameBlock t u) : SameBlock s u :=
  ⟨k.seq.trans h.seq, k.asicId.trans h.asicId, k.spiFormat.trans h.spiFormat, k.trace.trans h.trace,
    k.busy.trans h.busy, k.port.trans h.port, k.results.trans h.results, k.params.trans h.params⟩

theorem sameBlock_setEnv (es : List EnvMove) (s : State) : SameBlock s (setEnv es s) := by constructor <;> simp

theorem sameBlock_deliver (bs : List Byte) (s : State) : SameBlock s (deliver bs s) := by constructor <;> simp

theorem sameBlock_closeLink (s : State) : SameBlock s (closeLink s) := by constructor <;> simp

theorem sameBlock_accepted (p : List Byte) (s : State) : SameBlock s (accepted p s) := by constructor <;> simp

theorem sameBlock_setRx (bs : List Byte) (s : State) : SameBlock s (setRx bs s) := by constructor <;> simp

/-- The link and its marker are as they were, or both closed (R67). -/
def LinkMoved (s t : State) : Prop :=
  (t.link = s.link ∧ t.rxClose = s.rxClose) ∨ (t.link = .closed ∧ t.rxClose = true)

theorem LinkMoved.trans {s t u : State} (h : LinkMoved s t) (k : LinkMoved t u) : LinkMoved s u := by
  rcases k with ⟨k1, k2⟩ | k
  · rcases h with ⟨h1, h2⟩ | ⟨h1, h2⟩
    · exact .inl ⟨k1.trans h1, k2.trans h2⟩
    · exact .inr ⟨k1.trans h1, k2.trans h2⟩
  · exact .inr k

theorem deliver_extends (bs : List Byte) (s : State) : s.rx <+: (deliver bs s).rx := by
  rw [deliver_rx]; split <;> simp

/-! ### The strict prefix of a failed send (R65) -/

theorem strictPrefix_eq {k : Nat} {p : List Byte} (h : k < p.length) : strictPrefix k p = p.take k := by
  rw [strictPrefix, Nat.min_eq_left (by omega)]

theorem strictPrefix_length {k : Nat} {p : List Byte} (h : p ≠ []) : (strictPrefix k p).length < p.length := by
  have := List.length_pos_of_ne_nil h
  simp [strictPrefix]
  omega

theorem strictPrefix_isPrefix (k : Nat) (p : List Byte) : strictPrefix k p <+: p := List.take_prefix _ _

@[simp] theorem strictPrefix_zero (p : List Byte) : strictPrefix 0 p = [] := by simp [strictPrefix]

/-! ### TxSendAll (R51, R65, R67) -/

/-- Everything a wait for the transport's answer can come to. -/
theorem txWait_spec (p : List Byte) (es : List EnvMove) (s : State) :
    match txWait p es s with
    | .ok t => SameBlock s t ∧ t.wire = s.wire ++ p ∧ s.rx <+: t.rx ∧ t.link = s.link ∧ t.rxClose = s.rxClose
    | .fail t => SameBlock s t ∧ (∃ k, t.wire = s.wire ++ strictPrefix k p) ∧ s.rx <+: t.rx ∧ LinkMoved s t
    | .blocked t => SameBlock s t ∧ t.wire = s.wire ∧ s.rx <+: t.rx ∧ t.link = s.link ∧ t.rxClose = s.rxClose := by
  induction es generalizing s with
  | nil => exact ⟨.refl s, rfl, List.prefix_rfl, rfl, rfl⟩
  | cons m es ih =>
    have henv := sameBlock_setEnv es s
    cases m with
    | deliver bs =>
      have hd := henv.trans (sameBlock_deliver bs (setEnv es s))
      have hrx : s.rx <+: (deliver bs (setEnv es s)).rx := deliver_extends bs (setEnv es s)
      have h := ih (deliver bs (setEnv es s))
      simp only [txWait]
      split <;> rename_i t ht <;> rw [ht] at h
      · obtain ⟨h1, h2, h3, h4, h5⟩ := h
        exact ⟨hd.trans h1, by simpa using h2, hrx.trans h3, by simpa using h4, by simpa using h5⟩
      · obtain ⟨h1, ⟨k, h2⟩, h3, h4⟩ := h
        refine ⟨hd.trans h1, ⟨k, by simpa using h2⟩, hrx.trans h3, ?_⟩
        simpa [LinkMoved] using h4
      · obtain ⟨h1, h2, h3, h4, h5⟩ := h
        exact ⟨hd.trans h1, by simpa using h2, hrx.trans h3, by simpa using h4, by simpa using h5⟩
    | close =>
      exact ⟨henv.trans (sameBlock_closeLink _), ⟨0, by simp⟩, List.prefix_rfl, .inr ⟨rfl, rfl⟩⟩
    | sendOk => exact ⟨henv.trans (sameBlock_accepted p _), rfl, List.prefix_rfl, rfl, rfl⟩
    | sendFail k =>
      exact ⟨henv.trans (sameBlock_accepted _ _), ⟨k, rfl⟩, List.prefix_rfl, .inl ⟨rfl, rfl⟩⟩
    | cancel k =>
      cases hh : s.params.timeoutHook with
      | present =>
        simp only [txWait, hh]
        exact ⟨henv.trans (sameBlock_accepted _ _), ⟨k, rfl⟩, List.prefix_rfl, .inl ⟨rfl, rfl⟩⟩
      | absent =>
        have h := ih (setEnv es s)
        simp only [txWait, hh]
        split <;> rename_i t ht <;> rw [ht] at h
        · exact ⟨henv.trans h.1, h.2⟩
        · exact ⟨henv.trans h.1, h.2⟩
        · exact ⟨henv.trans h.1, h.2⟩

/-- Everything a send can come to: `ok` with the whole packet on the wire, on an open link only; `fail` with a strict
prefix of it; or no answer yet. -/
theorem txSendAll_spec (p : List Byte) (s : State) :
    match txSendAll p s with
    | .ok t => SameBlock s t ∧ t.wire = s.wire ++ p ∧ s.rx <+: t.rx ∧ t.link = s.link ∧ t.rxClose = s.rxClose
    | .fail t => SameBlock s t ∧ (∃ k, t.wire = s.wire ++ strictPrefix k p) ∧ s.rx <+: t.rx ∧ LinkMoved s t
    | .blocked t => SameBlock s t ∧ t.wire = s.wire ∧ s.rx <+: t.rx ∧ t.link = s.link ∧ t.rxClose = s.rxClose := by
  cases h : s.link with
  | closed =>
    simp only [txSendAll, h]
    exact ⟨.refl s, ⟨0, by simp⟩, List.prefix_rfl, .inl ⟨rfl, rfl⟩⟩
  | opened => simpa only [txSendAll, h] using txWait_spec p s.env s

/-- The moves a wait for the transport's answer takes are the first of those to come, and `rx` gains exactly what they
deliver: a send takes nothing from the receive stream (R64, R167). -/
theorem txWait_moves (p : List Byte) (es : List EnvMove) (s : State) (h : s.env = es) :
    match txWait p es s with
    | .ok t => ReceivedOnly s t
    | .fail t => ReceivedOnly s t
    | .blocked t => ReceivedOnly s t := by
  have one : ∀ {m : EnvMove} {es : List EnvMove} {s t : State}, s.env = m :: es → t.env = es → t.rx = s.rx →
      deliveredBytes [m] = [] → ReceivedOnly s t := fun {m _ _ _} h h1 h2 h3 =>
    ⟨[m], by rw [h, h1]; rfl, by rw [h2, h3]; simp⟩
  induction es generalizing s with
  | nil => exact ⟨[], by simp, by simp [deliveredBytes]⟩
  | cons m es ih =>
    have more : ∀ {u t : State}, u.env = es → u.rxClose = s.rxClose →
        u.rx = s.rx ++ (if s.rxClose then [] else deliveredBytes [m]) → ReceivedOnly u t → ReceivedOnly s t := by
      rintro u t h1 h2 h3 ⟨moves, h4, h5⟩
      refine ⟨m :: moves, by rw [h, ← h1, h4]; rfl, ?_⟩
      rw [h5, h3, h2]
      cases s.rxClose
      · cases m <;> simp [deliveredBytes]
      · simp
    cases m with
    | deliver bs =>
      have hi := ih (deliver bs (setEnv es s)) (by simp)
      have hm : ∀ {t}, ReceivedOnly (deliver bs (setEnv es s)) t → ReceivedOnly s t :=
        more (by simp) (by simp) (by cases hc : s.rxClose <;> simp [deliver_rx, hc, deliveredBytes])
      simp only [txWait]
      split <;> rename_i t ht <;> rw [ht] at hi <;> exact hm hi
    | close => exact one h rfl rfl rfl
    | sendOk => exact one h rfl rfl rfl
    | sendFail k => exact one h rfl rfl rfl
    | cancel k =>
      cases hh : s.params.timeoutHook with
      | present =>
        simp only [txWait, hh]
        exact one h rfl rfl rfl
      | absent =>
        have hi := ih (setEnv es s) rfl
        have hm : ∀ {t}, ReceivedOnly (setEnv es s) t → ReceivedOnly s t :=
          more rfl rfl (by simp [deliveredBytes])
        simp only [txWait, hh]
        split <;> rename_i t ht <;> rw [ht] at hi <;> exact hm hi

/-- The same for a send as a whole: on a closed link it takes no move. -/
theorem txSendAll_moves (p : List Byte) (s : State) :
    match txSendAll p s with
    | .ok t => ReceivedOnly s t
    | .fail t => ReceivedOnly s t
    | .blocked t => ReceivedOnly s t := by
  cases h : s.link with
  | closed =>
    simp only [txSendAll, h]
    exact ⟨[], by simp, by simp [deliveredBytes]⟩
  | opened => simpa only [txSendAll, h] using txWait_moves p s.env s rfl

theorem txSendAll_closed (p : List Byte) {s : State} (h : s.link = .closed) : txSendAll p s = .fail s := by
  simp [txSendAll, h]

theorem txSendAll_opened (p : List Byte) {s : State} (h : s.link = .opened) : txSendAll p s = txWait p s.env s := by
  simp [txSendAll, h]

/-! ### RxRecvExact (R52) -/

/-- Everything a wait for n bytes can come to. -/
theorem rxWait_spec (n : Nat) (es : List EnvMove) (s : State) :
    match rxWait n es s with
    | .bytes bs t => SameBlock s t ∧ t.wire = s.wire ∧ LinkMoved s t ∧ bs.length = n ∧ s.rx <+: bs ++ t.rx
    | .closed t => SameBlock s t ∧ t.wire = s.wire ∧ LinkMoved s t ∧ t.rx = []
    | .blocked t =>
      SameBlock s t ∧ t.wire = s.wire ∧ LinkMoved s t ∧ s.rx <+: t.rx ∧ t.rx.length < n ∧ t.rxClose = false := by
  induction es generalizing s with
  | nil =>
    by_cases h1 : n ≤ s.rx.length
    · simp only [rxWait, h1, if_true]
      exact ⟨sameBlock_setRx _ _, rfl, .inl ⟨rfl, rfl⟩, by simp [h1], by simp⟩
    · cases h2 : s.rxClose with
      | true =>
        simp only [rxWait, h1, if_false, h2, if_true]
        exact ⟨sameBlock_setRx _ _, rfl, .inl ⟨rfl, rfl⟩, rfl⟩
      | false =>
        have hw : rxWait n [] s = .blocked s := by simp [rxWait, h1, h2]
        rw [hw]
        exact ⟨.refl s, rfl, .inl ⟨rfl, rfl⟩, List.prefix_rfl, by omega, h2⟩
  | cons m es ih =>
    by_cases h1 : n ≤ s.rx.length
    · simp only [rxWait, h1, if_true]
      exact ⟨sameBlock_setRx _ _, rfl, .inl ⟨rfl, rfl⟩, by simp [h1], by simp⟩
    · cases h2 : s.rxClose with
      | true =>
        simp only [rxWait, h1, if_false, h2, if_true]
        exact ⟨sameBlock_setRx _ _, rfl, .inl ⟨rfl, rfl⟩, rfl⟩
      | false =>
        have step : ∀ t, SameBlock s t → t.wire = s.wire → LinkMoved s t → s.rx <+: t.rx →
            (match rxWait n es t with
            | .bytes bs u => SameBlock s u ∧ u.wire = s.wire ∧ LinkMoved s u ∧ bs.length = n ∧ s.rx <+: bs ++ u.rx
            | .closed u => SameBlock s u ∧ u.wire = s.wire ∧ LinkMoved s u ∧ u.rx = []
            | .blocked u => SameBlock s u ∧ u.wire = s.wire ∧ LinkMoved s u ∧ s.rx <+: u.rx ∧ u.rx.length < n
                ∧ u.rxClose = false) := by
          intro t hb hw hl hr
          have h := ih t
          split <;> rename_i u hu <;> rw [hu] at h
          · exact ⟨hb.trans h.1, h.2.1.trans hw, hl.trans h.2.2.1, h.2.2.2.1, hr.trans h.2.2.2.2⟩
          · exact ⟨hb.trans h.1, h.2.1.trans hw, hl.trans h.2.2.1, h.2.2.2⟩
          · exact ⟨hb.trans h.1, h.2.1.trans hw, hl.trans h.2.2.1, hr.trans h.2.2.2.1, h.2.2.2.2⟩
        have henv := sameBlock_setEnv es s
        have skip := step (setEnv es s) henv rfl (.inl ⟨rfl, rfl⟩) List.prefix_rfl
        cases m with
        | deliver bs =>
          simp only [rxWait, h1, if_false, h2, Bool.false_eq_true]
          exact step _ (henv.trans (sameBlock_deliver bs _)) (by simp) (.inl ⟨by simp, by simp⟩)
            (deliver_extends bs (setEnv es s))
        | close =>
          simp only [rxWait, h1, if_false, h2, Bool.false_eq_true]
          exact step _ (henv.trans (sameBlock_closeLink _)) rfl (.inr ⟨rfl, rfl⟩) List.prefix_rfl
        | sendOk => simpa only [rxWait, h1, if_false, h2, Bool.false_eq_true] using skip
        | sendFail k => simpa only [rxWait, h1, if_false, h2, Bool.false_eq_true] using skip
        | cancel k =>
          cases hh : s.params.timeoutHook with
          | absent => simpa only [rxWait, h1, if_false, h2, Bool.false_eq_true, hh] using skip
          | present =>
            simp only [rxWait, h1, if_false, h2, Bool.false_eq_true, hh]
            exact ⟨henv.trans (sameBlock_setRx _ _), rfl, .inl ⟨rfl, rfl⟩, rfl⟩

/-- Enough bytes are there: the receive takes the first n and leaves the environment alone. -/
theorem rxWait_enough {n : Nat} {s : State} (es : List EnvMove) (h : n ≤ s.rx.length) :
    rxWait n es s = .bytes (s.rx.take n) (setRx (s.rx.drop n) s) := by
  cases es <;> simp [rxWait, h]

/-- Too few bytes before the close marker: they are consumed (R52, R202). -/
theorem rxWait_closed {n : Nat} {s : State} (es : List EnvMove) (h : s.rx.length < n) (hc : s.rxClose = true) :
    rxWait n es s = .closed (setRx [] s) := by
  cases es <;> simp [rxWait, Nat.not_le.2 h, hc]

/-! ### The header encoder (R120) and SEND_COMMAND (R160) -/

@[simp] theorem currentCount_setWidth (s : State) : (currentCount s).setWidth 14 = s.seq := by
  apply BitVec.eq_of_toNat_eq
  have := s.seq.isLt
  simp [currentCount]

/-- The concatenation of the seven fields is 80 bits (R123: the length check never fails). -/
theorem headerFields_width (t : BitVec 8) (c : BitVec 14) (d : BitVec 16) :
    (concatFields (headerFields t c d)).1 = Config.headerBits := rfl

theorem toNat_append_eq {v w : Nat} (x : BitVec v) (y : BitVec w) : (x ++ y).toNat = x.toNat * 2 ^ w + y.toNat := by
  rw [BitVec.toNat_append, Nat.shiftLeft_eq, Nat.mul_comm, Nat.two_pow_add_eq_or_of_lt y.isLt]

/-- The value of a concatenation of fields. -/
theorem concatFields_cons_toNat (f : Field) (fs : List Field) :
    (concatFields (f :: fs)).2.toNat = f.2.toNat * 2 ^ (concatFields fs).1 + (concatFields fs).2.toNat :=
  toNat_append_eq _ _

/-- `H` as a number (R81). -/
theorem headerFields_toNat (t : BitVec 8) (c : BitVec 14) (d : BitVec 16) :
    (concatFields (headerFields t c d)).2.toNat = t.toNat * 2 ^ 64 + c.toNat * 2 ^ 48 + d.toNat := by
  simp only [headerFields, concatFields_cons_toNat]
  simp only [concatFields, Config.version, Config.systemNumber, Config.sequencerFlag, Config.reserved,
    BitVec.toNat_ofNat, Nat.zero_mod, Nat.zero_mul, Nat.zero_add, Nat.add_zero, Nat.pow_zero, Nat.mul_one]
  norm_num
  ring

/-- The 80-bit construction of R120 gives the byte table of R82 (R128). -/
theorem be_headerFields (t : BitVec 8) (c : BitVec 14) (d : BitVec 16) :
    be 10 (concatFields (headerFields t c d)).2.toNat = headerBytes t c d := by
  rw [headerFields_toNat, ← beNat_headerBytes]
  exact be_beNat (headerBytes t c d)

/-- Everything ENCODE_HEADER can do: the ten bytes for operands in range, `FramingError` otherwise (R120, R125). -/
theorem buildHeader_eq (t d : Nat) (s : State) :
    buildHeader t d s =
      if t < 256 ∧ d < 65536 then .ok (headerBytes (BitVec.ofNat 8 t) s.seq (BitVec.ofNat 16 d))
      else .error .framing := by
  by_cases h : t < 256 ∧ d < 65536
  · have hb := be_headerFields (BitVec.ofNat 8 t) ((currentCount s).setWidth 14) (BitVec.ofNat 16 d)
    have hw := headerFields_width (BitVec.ofNat 8 t) ((currentCount s).setWidth 14) (BitVec.ofNat 16 d)
    rw [if_pos h, buildHeader, if_pos (by simpa [fits] using h)]
    dsimp only
    rw [if_pos hw, hb, currentCount_setWidth]
  · rw [if_neg h, buildHeader, if_neg]
    simpa [fits] using h

/-- Everything SEND_COMMAND can do with a payload its length field can hold: the header and the payload go to the
transport, and `FramingError` is not reached (R160, R168). -/
theorem sendCommand_eq (i : Instr) (opcode : Byte) {payload : List Byte} (h : payload.length < 65536) (s : State) :
    sendCommand i opcode payload s =
      endSend i (txSendAll (headerBytes opcode s.seq (BitVec.ofNat 16 payload.length) ++ payload) s) := by
  have ho : opcode.toNat < 256 := opcode.isLt
  have hd : (BitVec.ofNat 16 payload.length).toNat = payload.length := toNat_ofNat_of_lt (w := 16) h
  simp only [sendCommand, buildHeader_eq, ho, h, and_self, if_true, BitVec.ofNat_toNat, BitVec.setWidth_eq,
    decodeHeader_headerBytes, Option.map_some, hd]

end Sys2Proof.Machine
end

