-- ==== Sys2Proof/Laws/Exec.lean ====
section
/-! SUPPORT. Everything an operation can come to, said once: the shared ends of Machine/Ops.lean, the four commands
and READ_BACK, and from them one frame for `exec`. -/

namespace Sys2Proof.Machine

/-- What every operation that answers a next state has done: the port and the parameters are as they were, `wire` has
only grown, the link is as it was or closed with its marker, and either one result has been returned with the block idle,
or the operation is still in progress with the registers as they were. -/
structure OpFrame (i : Instr) (s t : State) : Prop where
  port : t.port = s.port
  params : t.params = s.params
  wire : s.wire <+: t.wire
  link : LinkMoved s t
  ended : (t.busy = none ∧ ∃ r, t.results = s.results ++ [r]) ∨
    (t.busy = some i ∧ t.results = s.results ∧ t.wire = s.wire ∧
      t.seq = s.seq ∧ t.asicId = s.asicId ∧ t.spiFormat = s.spiFormat ∧ t.trace = s.trace)

theorem LinkMoved.refl (s : State) : LinkMoved s s := .inl ⟨rfl, rfl⟩

theorem opFrame_finish (i : Instr) (v : Value) {s t : State} (hb : t.port = s.port) (hp : t.params = s.params)
    (hw : s.wire <+: t.wire) (hl : LinkMoved s t) (hr : t.results = s.results) : OpFrame i s (finish v t) :=
  ⟨hb, hp, hw, hl, .inl ⟨rfl, .ok v, by simp [hr]⟩⟩

theorem opFrame_raise (i : Instr) (e : ErrorKind) {s t : State} (hb : t.port = s.port) (hp : t.params = s.params)
    (hw : s.wire <+: t.wire) (hl : LinkMoved s t) (hr : t.results = s.results) : OpFrame i s (raise e t) :=
  ⟨hb, hp, hw, hl, .inl ⟨rfl, .error e, by simp [hr]⟩⟩

theorem opFrame_raise_self (i : Instr) (e : ErrorKind) (s : State) : OpFrame i s (raise e s) :=
  opFrame_raise i e rfl rfl List.prefix_rfl (.refl s) rfl

/-- A send ends in one of the three ways of R160. -/
theorem opFrame_endSend (i : Instr) (p : List Byte) (s : State) : OpFrame i s (endSend i (txSendAll p s)) := by
  have h := txSendAll_spec p s
  split at h <;> rename_i t ht <;> rw [ht]
  · exact opFrame_finish i _ (by simp [h.1.port]) (by simp [h.1.params]) (by simp [h.2.1])
      (.inl ⟨by simp [h.2.2.2.1], by simp [h.2.2.2.2]⟩) (by simp [h.1.results])
  · obtain ⟨hb, ⟨k, hw⟩, -, hl⟩ := h
    exact opFrame_raise i _ hb.port hb.params (by simp [hw]) hl hb.results
  · obtain ⟨hb, hw, -, hl, hc⟩ := h
    exact ⟨hb.port, hb.params, by simp [endSend, hw], .inl ⟨hl, hc⟩,
      .inr ⟨rfl, hb.results, hw, hb.seq, hb.asicId, hb.spiFormat, hb.trace⟩⟩

/-- A receive ends in one of the three ways of R200. -/
theorem opFrame_endReceive (n : Nat) (s : State) : OpFrame (.readBack n) s (endReceive n (rxRecvExact n s)) := by
  have h := rxWait_spec n s.env s
  rw [rxRecvExact]
  split at h <;> rename_i t ht <;> rw [ht]
  · obtain ⟨hb, hw, hl, -⟩ := h
    exact opFrame_finish _ _ hb.port hb.params (by simp [hw]) hl hb.results
  · obtain ⟨hb, hw, hl, -⟩ := h
    exact opFrame_raise _ _ hb.port hb.params (by simp [hw]) hl hb.results
  · obtain ⟨hb, hw, hl, -⟩ := h
    exact ⟨hb.port, hb.params, by simp [endReceive, hw], hl,
      .inr ⟨rfl, hb.results, hw, hb.seq, hb.asicId, hb.spiFormat, hb.trace⟩⟩

/-- SEND_COMMAND under any payload its length field can hold. -/
theorem opFrame_sendCommand (i : Instr) (opcode : Byte) {payload : List Byte} (h : payload.length < 65536) (s : State) :
    OpFrame i s (sendCommand i opcode payload s) := by
  rw [sendCommand_eq i opcode h]
  exact opFrame_endSend i _ s

/-- The width check of WRITE_SYS_REG bounds its value's length (R166). -/
theorem writeSysReg_length_lt {address n value : Nat} (h : operandsFit (.writeSysReg address n value) = true) :
    n < 256 := by
  simp [operandsFit] at h
  exact h.1.2

/-- The frame of every operation. -/
theorem exec_frame {i : Instr} {s t : State} (h : exec i s = .next t) : OpFrame i s t := by
  have self : ∀ v, OpFrame i s (finish v s) :=
    fun v => opFrame_finish i v rfl rfl List.prefix_rfl (.refl s) rfl
  have bad : ∀ e, OpFrame i s (raise e s) := fun e => opFrame_raise_self i e s
  cases i with
  | writeSysReg a n v =>
    simp only [exec, execWriteSysReg] at h
    split at h <;> injection h with h <;> subst h
    · rename_i hf
      have := writeSysReg_length_lt hf
      exact opFrame_sendCommand _ _ (by simp; omega) s
    · exact bad _
  | readSysReg a =>
    simp only [exec, execReadSysReg] at h
    split at h <;> injection h with h <;> subst h
    · exact opFrame_sendCommand _ _ (by simp) s
    · exact bad _
  | writeAsicSpiRegister r b v =>
    simp only [exec, execWriteAsicSpiRegister] at h
    split at h
    · split at h
      · cases h
      · injection h with h
        subst h
        exact opFrame_sendCommand _ _ (by simp) s
    · injection h with h
      subst h
      exact bad _
  | readAsicSpiExRegister r b =>
    simp only [exec, execReadAsicSpiExRegister] at h
    split at h <;> injection h with h <;> subst h
    · exact opFrame_sendCommand _ _ (by simp) s
    · exact bad _
  | readBack n =>
    simp only [exec, execReadBack] at h
    split at h <;> injection h with h <;> subst h
    · exact self _
    · exact opFrame_endReceive n s
  | setSpiFormat v =>
    simp only [exec, execSetSpiFormat] at h
    split at h <;> injection h with h <;> subst h
    · exact opFrame_finish _ _ rfl rfl List.prefix_rfl (.refl s) rfl
    · exact bad _
  | setAsicId v =>
    simp only [exec, execSetAsicId] at h
    split at h <;> injection h with h <;> subst h
    · exact opFrame_finish _ _ rfl rfl List.prefix_rfl (.refl s) rfl
    · exact bad _
  | setTrace b =>
    injection h with h
    subst h
    exact opFrame_finish _ _ rfl rfl List.prefix_rfl (.refl s) rfl
  | getCount =>
    injection h with h
    subst h
    exact self _
  | encodeHeader t d =>
    simp only [exec, execEncodeHeader] at h
    split at h <;> injection h with h <;> subst h
    · exact self _
    · exact bad _
  | current =>
    injection h with h
    subst h
    exact self _
  | incrementAfterSend =>
    injection h with h
    subst h
    exact opFrame_finish _ _ rfl rfl List.prefix_rfl (.refl s) rfl

end Sys2Proof.Machine
end

