-- ==== Sys2Proof/Laws/PerInstr.lean ====
section
/-! SUPPORT. Statements for all instructions, one lemma per constructor: the length of an encoding (30_encoding.md
R97; 40_header_codec.md R126; no bytes for an operation that emits nothing, log 18). -/

namespace Sys2Proof.Laws.EncodingLength

/-- The encoding of a well-formed operation has the length R97 gives it, whatever the registers hold. -/
def Statement (i : Instr) : Prop :=
  ∀ x : Implicit, i.wellFormed = true → (encode x i).length = i.encodedLength

theorem writeSysReg (address n value : Nat) : Statement (.writeSysReg address n value) := fun _ _ => by
  simp only [encode, Instr.encodedLength, List.length_append, List.length_cons, headerBytes_length, be_length]; omega

theorem readSysReg (address : Nat) : Statement (.readSysReg address) := fun _ _ => by
  simp [encode, Instr.encodedLength]

theorem writeAsicSpiRegister (regAddr bitLength value : Nat) :
    Statement (.writeAsicSpiRegister regAddr bitLength value) := fun _ _ => by
  simp [encode, Instr.encodedLength]

theorem readAsicSpiExRegister (regAddr bitLength : Nat) : Statement (.readAsicSpiExRegister regAddr bitLength) :=
  fun _ _ => by simp [encode, Instr.encodedLength]

theorem readBack (n : Nat) : Statement (.readBack n) := fun _ _ => rfl

theorem setSpiFormat (v : Nat) : Statement (.setSpiFormat v) := fun _ _ => rfl

theorem setAsicId (v : Nat) : Statement (.setAsicId v) := fun _ _ => rfl

theorem setTrace (b : Bool) : Statement (.setTrace b) := fun _ _ => rfl

theorem getCount : Statement .getCount := fun _ _ => rfl

theorem encodeHeader (packetType dataLength : Nat) : Statement (.encodeHeader packetType dataLength) := fun _ _ => rfl

theorem current : Statement .current := fun _ _ => rfl

theorem incrementAfterSend : Statement .incrementAfterSend := fun _ _ => rfl

end Sys2Proof.Laws.EncodingLength
end

