-- ==== Sys2Proof/Tests/Slice0.lean ====
section
/-! SUPPORT. The model's own tests. Every expected byte and value is written out from the spec: the vectors of
95_test_vectors.md where a row is named, else the encoding tables of 30_encoding.md. After them, for every obligation
with hypotheses, a state and operands that meet them. -/

namespace Sys2Proof.Tests

open Sys2Proof Sys2Proof.Machine

/-! ### WellFormed refuses an ill-formed term for each check -/

theorem test_wf_writeSysReg_address : (Instr.writeSysReg 0x10000 1 0).wellFormed = false := by decide
theorem test_wf_writeSysReg_length : (Instr.writeSysReg 0x0010 256 0).wellFormed = false := by decide
theorem test_wf_writeSysReg_value : (Instr.writeSysReg 0x0010 1 0x100).wellFormed = false := by decide
theorem test_wf_writeSysReg_empty_value : (Instr.writeSysReg 0x0010 0 1).wellFormed = false := by decide
theorem test_wf_readSysReg_address : (Instr.readSysReg 0x10000).wellFormed = false := by decide
theorem test_wf_writeAsic_regAddr : (Instr.writeAsicSpiRegister 0x10000 8 0).wellFormed = false := by decide
theorem test_wf_writeAsic_bitLength : (Instr.writeAsicSpiRegister 0x0102 0x10000 0).wellFormed = false := by decide
theorem test_wf_writeAsic_value : (Instr.writeAsicSpiRegister 0x0102 8 0x100).wellFormed = false := by decide
theorem test_wf_readAsic_regAddr : (Instr.readAsicSpiExRegister 0x10000 8).wellFormed = false := by decide
theorem test_wf_readAsic_bitLength : (Instr.readAsicSpiExRegister 0x0005 0x10000).wellFormed = false := by decide
theorem test_wf_setSpiFormat : (Instr.setSpiFormat 256).wellFormed = false := by decide
theorem test_wf_setAsicId : (Instr.setAsicId 256).wellFormed = false := by decide
theorem test_wf_encodeHeader_type : (Instr.encodeHeader 0x100 0).wellFormed = false := by decide
theorem test_wf_encodeHeader_length : (Instr.encodeHeader 0 0x10000).wellFormed = false := by decide

/-- The largest operands of each are accepted. -/
theorem test_wf_largest :
    (Instr.writeSysReg 0xFFFF 2 0xFFFF).wellFormed = true ∧ (Instr.readSysReg 0xFFFF).wellFormed = true ∧
    (Instr.writeAsicSpiRegister 0xFFFF 0xFFFF 0xFF).wellFormed = true ∧
    (Instr.readAsicSpiExRegister 0xFFFF 0xFFFF).wellFormed = true ∧ (Instr.setSpiFormat 255).wellFormed = true ∧
    (Instr.setAsicId 255).wellFormed = true ∧ (Instr.encodeHeader 0xFF 0xFFFF).wellFormed = true := by decide

/-! ### Words written out from the encoding decode to the operation -/

/-- W3: SEQ 5, left zero padding. -/
theorem test_decode_writeSysReg :
    decode [0x00, 0x10, 0x00, 0x05, 0x00, 0x00, 0x00, 0x00, 0x00, 0x07, 0xBE, 0xEF, 0x04, 0x00, 0x00, 0x00, 0x07]
      = .ok (⟨.writeSysReg 0xBEEF 4 0x7, 5, none⟩, []) := rfl

/-- W4: a length byte of 0 and no value bytes. -/
theorem test_decode_writeSysReg_empty :
    decode [0x00, 0x10, 0x00, 0x00, 0x00, 0x00, 0x00, 0x00, 0x00, 0x03, 0x12, 0x34, 0x00]
      = .ok (⟨.writeSysReg 0x1234 0 0, 0, none⟩, []) := rfl

/-- RS5: the count at its largest. -/
theorem test_decode_readSysReg :
    decode [0x00, 0x11, 0x3F, 0xFF, 0x00, 0x00, 0x00, 0x00, 0x00, 0x02, 0x00, 0x01]
      = .ok (⟨.readSysReg 0x0001, 0x3FFF, none⟩, []) := rfl

/-- WA3, with the first bytes of a next packet behind it. -/
theorem test_decode_writeAsic :
    decode [0x00, 0xC2, 0x00, 0x00, 0x00, 0x00, 0x00, 0x00, 0x00, 0x07, 0x00, 0x02, 0x01, 0x02, 0x00, 0x10, 0xFF, 0x00, 0x11]
      = .ok (⟨.writeAsicSpiRegister 0x0102 16 0xFF, 0, some (0x00, 0x02)⟩, [0x00, 0x11]) := rfl

/-- RA4. -/
theorem test_decode_readAsic :
    decode [0x00, 0xC3, 0x00, 0x04, 0x00, 0x00, 0x00, 0x00, 0x00, 0x06, 0x01, 0x03, 0xAB, 0xCD, 0x00, 0x0C]
      = .ok (⟨.readAsicSpiExRegister 0xABCD 12, 4, some (0x01, 0x03)⟩, []) := rfl

/-- H9: count bit 13 is bit 5 of byte 2. -/
theorem test_decode_bareHeader :
    decode [0x00, 0xC2, 0x20, 0x00, 0x00, 0x00, 0x00, 0x00, 0x00, 0x07]
      = .ok (⟨.encodeHeader 0xC2 7, 8192, none⟩, []) := rfl

/-- R89: packet type 0x12 has no payload format. -/
theorem test_decode_rejects_readBack :
    decode [0x00, 0x12, 0x00, 0x00, 0x00, 0x00, 0x00, 0x00, 0x00, 0x02, 0x00, 0x20] = .error .receiveOnlyType := rfl

/-- R92: an unassigned packet type. -/
theorem test_decode_rejects_unassigned :
    decode [0x00, 0xA5, 0x00, 0x00, 0x00, 0x00, 0x00, 0x00, 0x00, 0x02, 0x00, 0x20] = .error .unassignedType := rfl

/-- R83: a constant field that is not 0 (bit 0 of `sequencer_flag`, bit 6 of byte 2). -/
theorem test_decode_rejects_constant :
    decode [0x00, 0x11, 0x40, 0x00, 0x00, 0x00, 0x00, 0x00, 0x00, 0x02, 0x00, 0x20] = .error .nonzeroConstant := rfl

/-- R93: fewer bytes than the header's own length. -/
theorem test_decode_rejects_short :
    decode [0x00, 0x11, 0x00, 0x00, 0x00, 0x00, 0x00, 0x00, 0x00, 0x02, 0x00] = .error .shortPayload := rfl

/-- R80: fewer bytes than a header. -/
theorem test_decode_rejects_short_header : decode [0x00, 0x11, 0x00] = .error .shortHeader := rfl

/-- R90: a length that is not READ_SYS_REG's. -/
theorem test_decode_rejects_mismatch :
    decode [0x00, 0x11, 0x00, 0x00, 0x00, 0x00, 0x00, 0x00, 0x00, 0x03, 0x00, 0x20, 0x00] = .error .lengthMismatch := rfl

/-- R85: the length byte says two value bytes and one is there. -/
theorem test_decode_rejects_length_byte :
    decode [0x00, 0x10, 0x00, 0x00, 0x00, 0x00, 0x00, 0x00, 0x00, 0x04, 0x00, 0x10, 0x02, 0xAB]
      = .error .lengthMismatch := rfl

/-- The fixed bits of the opcode table's rows, operand bytes zero (log 17). -/
theorem test_table_writeSysReg : decodeTableWord 80 0x00100000000000000003 = some (.writeSysReg 0 0 0) := rfl
/-- R90: no WRITE_SYS_REG packet has a payload of 0 bytes. -/
theorem test_table_writeSysReg_no_length : decodeTableWord 80 0x00100000000000000000 = none := rfl
theorem test_table_readSysReg : decodeTableWord 80 0x00110000000000000002 = some (.readSysReg 0) := rfl
theorem test_table_writeAsic : decodeTableWord 80 0x00C20000000000000007 = some (.writeAsicSpiRegister 0 0 0) := rfl
theorem test_table_readAsic : decodeTableWord 80 0x00C30000000000000006 = some (.readAsicSpiExRegister 0 0) := rfl
theorem test_table_encodeHeader : decodeTableWord 80 0x00A52AAA000000005A5A = some (.encodeHeader 0xA5 0x5A5A) := rfl

/-! ### One step of each operation, on the vectors of 95_test_vectors.md -/

/-- The reset state with a count, the configuration bytes and the environment's moves. -/
def start (seq : Count) (asicId spiFormat : Byte) (env : List EnvMove) : State :=
  { State.reset with seq := seq, asicId := asicId, spiFormat := spiFormat, env := env }

/-- What a meaning leaves on the wire, the count and the results. -/
def outcome (o : Host.Outcome State Fault Refusal) : Option (List Byte × Nat × List Result) :=
  match o with
  | .next s => some (s.wire, s.seq.toNat, s.results)
  | .fault _ => none
  | .refused _ => none

/-- The operation a step leaves in progress. -/
def busyAfter (o : Host.Outcome State Fault Refusal) : Option Instr :=
  match o with
  | .next s => s.busy
  | .fault _ => none
  | .refused _ => none

/-- W6: the longest packet, and the counter wraps. The 255 value bytes are `0xFF`. -/
theorem test_exec_writeSysReg_longest :
    outcome (exec (.writeSysReg 0x0000 255 (beNat (List.replicate 255 0xFF))) (start 16383 0x00 0x02 [.sendOk]))
      = some ([0x00, 0x10, 0x3F, 0xFF, 0x00, 0x00, 0x00, 0x00, 0x01, 0x02, 0x00, 0x00] ++ List.replicate 256 0xFF, 0,
          [.ok .nothing]) := by decide +kernel

/-- W12: 1 does not fit 0 bits. -/
theorem test_exec_writeSysReg_refused :
    outcome (exec (.writeSysReg 0x0010 0 1) (start 5 0x00 0x02 [.sendOk])) = some ([], 5, [.error .encoding]) := rfl

/-- RS2. -/
theorem test_exec_readSysReg :
    outcome (exec (.readSysReg 0x0020) (start 1 0x00 0x02 [.sendOk]))
      = some ([0x00, 0x11, 0x00, 0x01, 0x00, 0x00, 0x00, 0x00, 0x00, 0x02, 0x00, 0x20], 2, [.ok .nothing]) := rfl

/-- E1: an oversized operand on a closed link is EncodingError. -/
theorem test_exec_readSysReg_priority :
    outcome (exec (.readSysReg 0x10000) { State.reset with link := .closed, rxClose := true })
      = some ([], 0, [.error .encoding]) := rfl

/-- WA4. -/
theorem test_exec_writeAsic :
    outcome (exec (.writeAsicSpiRegister 0xFFFF 0xFFFF 0xFF) (start 3 0x07 0x03 [.sendOk]))
      = some ([0x00, 0xC2, 0x00, 0x03, 0x00, 0x00, 0x00, 0x00, 0x00, 0x07, 0x07, 0x03, 0xFF, 0xFF, 0xFF, 0xFF, 0xFF], 4,
          [.ok .nothing]) := rfl

/-- F3: the send fails after 11 bytes. -/
theorem test_exec_writeAsic_failed :
    outcome (exec (.writeAsicSpiRegister 0x0102 8 0x5A) (start 0 0x00 0x03 [.sendFail 11]))
      = some ([0x00, 0xC2, 0x00, 0x00, 0x00, 0x00, 0x00, 0x00, 0x00, 0x07, 0x00], 0, [.error .transport]) := rfl

/-- RA3. -/
theorem test_exec_readAsic :
    outcome (exec (.readAsicSpiExRegister 0x0005 8) (start 0x1234 0x00 0x02 [.sendOk]))
      = some ([0x00, 0xC3, 0x12, 0x34, 0x00, 0x00, 0x00, 0x00, 0x00, 0x06, 0x00, 0x02, 0x00, 0x05, 0x00, 0x08], 0x1235,
          [.ok .nothing]) := rfl

/-- RA8. -/
theorem test_exec_readAsic_refused :
    outcome (exec (.readAsicSpiExRegister 0x0005 0x10000) (start 4 0x00 0x02 [.sendOk]))
      = some ([], 4, [.error .encoding]) := rfl

/-- B3: fragments of one byte. -/
theorem test_exec_readBack_fragments :
    exec (.readBack 3) { State.reset with rx := [0x12], env := [.deliver [0x34], .deliver [0x56]] }
      = .next { State.reset with results := [.ok (.bytes [0x12, 0x34, 0x56])] } := rfl

/-- B4: the stream closes early and the two bytes are consumed. -/
theorem test_exec_readBack_closed :
    exec (.readBack 3) { State.reset with rx := [0x12, 0x34], rxClose := true, link := .closed }
      = .next { State.reset with rxClose := true, link := .closed, results := [.error .transport] } := rfl

/-- C10: a setter works on a closed link. -/
theorem test_exec_setSpiFormat :
    exec (.setSpiFormat 3) { State.reset with link := .closed, rxClose := true }
      = .next { State.reset with link := .closed, rxClose := true, spiFormat := 0x03, results := [.ok .nothing] } := rfl

/-- C4. -/
theorem test_exec_setSpiFormat_refused :
    exec (.setSpiFormat 256) State.reset = .next { State.reset with results := [.error .encoding] } := rfl

/-- C5. -/
theorem test_exec_setAsicId :
    exec (.setAsicId 1) State.reset = .next { State.reset with asicId := 0x01, results := [.ok .nothing] } := rfl

/-- C6. -/
theorem test_exec_setAsicId_refused :
    exec (.setAsicId 256) { State.reset with asicId := 0x01 }
      = .next { State.reset with asicId := 0x01, results := [.error .encoding] } := rfl

/-- C7. -/
theorem test_exec_setTrace :
    exec (.setTrace true) State.reset = .next { State.reset with trace := true, results := [.ok .nothing] } := rfl

/-- C8. -/
theorem test_exec_setTrace_clear :
    exec (.setTrace false) { State.reset with trace := true }
      = .next { State.reset with results := [.ok .nothing] } := rfl

/-- C9. -/
theorem test_exec_getCount :
    outcome (exec .getCount (start 42 0x00 0x02 [])) = some ([], 42, [.ok (.count 42)]) := rfl

/-- H2: all three variable fields at their largest. -/
theorem test_exec_encodeHeader :
    outcome (exec (.encodeHeader 0xFF 65535) (start 16383 0x00 0x02 []))
      = some ([], 16383, [.ok (.bytes [0x00, 0xFF, 0x3F, 0xFF, 0x00, 0x00, 0x00, 0x00, 0xFF, 0xFF])]) := rfl

/-- 95_test_vectors.md section 2.1: an operand out of range is FramingError. -/
theorem test_exec_encodeHeader_framing :
    outcome (exec (.encodeHeader 0 0x10000) State.reset) = some ([], 0, [.error .framing]) := rfl

/-- R140's worked example. -/
theorem test_exec_current :
    outcome (exec .current (start 0x1234 0x00 0x02 [])) = some ([], 0x1234, [.ok (.count 0x1234)]) := rfl

/-- R141's worked example: the wrap is silent. -/
theorem test_exec_incrementAfterSend_wraps :
    outcome (exec .incrementAfterSend (start 0x3FFF 0x00 0x02 [])) = some ([], 0, [.ok .nothing]) := rfl

/-- R141: the carry into header byte 2. -/
theorem test_exec_incrementAfterSend_carries :
    outcome (exec .incrementAfterSend (start 0x00FF 0x00 0x02 [])) = some ([], 0x0100, [.ok .nothing]) := rfl

/-- A table word runs as the first instruction after reset, and blocks where the environment says nothing (R238). -/
theorem test_step_table_word :
    busyAfter (step (State.reset.withFetchWord 80 0x00110000000000000002)) = some (.readSysReg 0) := by decide

/-! ### For every obligation with hypotheses, something that meets them

Each theorem is named after its obligation and gives concrete values for each clause, at the ends of the ranges. -/

/-- A request at the port, the block idle. -/
def asking (r : Request) : State := { State.reset with port := [r] }

/-- The reset state with what the environment does next. -/
def facing (env : List EnvMove) : State := { State.reset with env := env }

/-- The reset state with other parameters. -/
def under (p : Params) : State := State.resetWith p

/-- The default parameters with the timeout hook. -/
def hooked : Params := { Config.defaults with timeoutHook := .present }

/-- The default parameters with the cautious policy. -/
def cautious : Params := { Config.defaults with bitLengthPolicy := .refuseOutside1To8 }

/-- The default parameters with one pattern assigned. -/
def wired : Params := { Config.defaults with selectorMap := [(.getCount, 3)] }

/-- A command of each kind with its operands at the ends of their ranges. -/
def commands : List Instr :=
  [.writeSysReg 0xFFFF 2 0xFFFF, .writeSysReg 0 0 0, .readSysReg 0xFFFF, .writeAsicSpiRegister 0xFFFF 0xFFFF 0xFF,
    .readAsicSpiExRegister 0xFFFF 0xFFFF]

theorem witness_commands : ∀ i ∈ commands, i.emitsPacket = true ∧ i.wellFormed = true := by decide

/-- Under the default policy no `bit_length` is refused: the third hypothesis of the statements on all commands. -/
theorem witness_policy (i : Instr) :
    ∀ r b v, i = .writeAsicSpiRegister r b v → bitLengthRefused State.reset.params.bitLengthPolicy b = false :=
  fun _ _ _ _ => rfl

theorem witness_StepRunsTheAcceptedRequest :
    ({ State.reset with busy := some (.readBack 1) } : State).busy = some (.readBack 1) ∧
    ((asking (.host .getCount)).busy = none ∧ Instr.getCount.isInternal = false ∧
      (asking (.host .getCount)).port = .host .getCount :: []) ∧
    (Instr.current.isInternal = true ∧ (asking (.host .current)).port = .host .current :: []) ∧
    (asking (.mux .current)).port = .mux .current :: [] ∧
    selectedOp wired.selectorMap 3 = some .getCount := by decide

theorem witness_FetchedTableWordIsRun :
    decodeTableWord 80 0x00110000000000000002 = some (.readSysReg 0) := test_table_readSysReg

theorem witness_IdleBlockLetsTheEnvironmentMove :
    State.reset.busy = none ∧ State.reset.port = [] ∧ State.reset.env = [] ∧ State.reset.rxClose = false ∧
    (facing [.deliver [0x12]]).env = .deliver [0x12] :: [] ∧ (facing [.close]).env = .close :: [] ∧
    (facing [.sendOk]).env = .sendOk :: [] ∧ (facing [.sendFail 11]).env = .sendFail 11 :: [] ∧
    (facing [.cancel 0]).env = .cancel 0 :: [] ∧
    ({ facing [.deliver [0x12]] with rxClose := true, link := .closed } : State).rxClose = true := by decide

theorem witness_ResetWritesTheRegistersOnly :
    (asking .reset).busy = none ∧ (asking .reset).port = .reset :: [] := by decide

theorem witness_EncodeHeaderReturnsTheByteTable : (0xFF < 256 ∧ 0xFFFF < 65536) ∧ (0 < 256 ∧ 0 < 65536) := by decide

theorem witness_EncodeHeaderNeverTruncates :
    (256 ≤ 256 ∨ 65536 ≤ 0) ∧ (256 ≤ 0xFF ∨ 65536 ≤ 0x10000) := by decide

theorem witness_HeaderRoundTripIsExact :
    (0xFF < 256 ∧ 0xFFFF < 65536) ∧
    buildHeader 0x10 4 State.reset = .ok [0x00, 0x10, 0x00, 0x00, 0x00, 0x00, 0x00, 0x00, 0x00, 0x04] := ⟨by decide, rfl⟩

/-- The hypotheses of the four statements on a command sent whole, at the largest operands and at the smallest. -/
theorem witness_WriteSysRegSendsItsPacket :
    (0xFFFF < 65536 ∧ 255 < 256 ∧ 0 < 2 ^ (8 * 255)) ∧ (0xFFFF < 65536 ∧ 2 < 256 ∧ 0xFFFF < 2 ^ (8 * 2)) ∧
    (0 < 65536 ∧ 0 < 256 ∧ 0 < 2 ^ (8 * 0)) ∧
    (facing [.sendOk]).link = .opened ∧ (facing [.sendOk]).env = .sendOk :: [] :=
  ⟨⟨by decide, by decide, Nat.pow_pos (by decide)⟩, by decide, by decide, rfl, rfl⟩

theorem witness_ReadSysRegSendsItsPacket :
    0xFFFF < 65536 ∧ (facing [.sendOk]).link = .opened ∧ (facing [.sendOk]).env = .sendOk :: [] := by decide

theorem witness_WriteAsicSpiRegisterSendsItsPacket :
    (0xFFFF < 65536 ∧ 0xFFFF < 65536 ∧ 0xFF < 256) ∧ (facing [.sendOk]).params.bitLengthPolicy = .fixed1 ∧
    ((under cautious).params.bitLengthPolicy ≠ .fixed1 ∧ (1 ≤ 1 ∧ 1 ≤ 8) ∧ (1 ≤ 8 ∧ 8 ≤ 8)) ∧
    (facing [.sendOk]).link = .opened ∧ (facing [.sendOk]).env = .sendOk :: [] := by decide

theorem witness_ReadAsicSpiExRegisterSendsItsPacket :
    0xFFFF < 65536 ∧ (facing [.sendOk]).link = .opened ∧ (facing [.sendOk]).env = .sendOk :: [] := by decide

theorem witness_OversizedOperandsEndWithEncodingError :
    ¬ (0x10000 < 2 ^ 16 ∧ 1 < 2 ^ 8 ∧ 0 < 2 ^ (8 * 1)) ∧ ¬ (0x10 < 2 ^ 16 ∧ 256 < 2 ^ 8 ∧ 0 < 2 ^ 8) ∧
    ¬ (0x10 < 2 ^ 16 ∧ 0 < 2 ^ 8 ∧ 1 < 2 ^ (8 * 0)) ∧ ¬ 0x10000 < 2 ^ 16 ∧
    ¬ (0x0102 < 2 ^ 16 ∧ 8 < 2 ^ 16 ∧ 0x100 < 2 ^ 8) ∧ ¬ (0x0005 < 2 ^ 16 ∧ 0x10000 < 2 ^ 16) := by decide

theorem witness_CommandHandsItsEncodingToTheTransport :
    (Instr.readSysReg 0xFFFF).emitsPacket = true ∧ (Instr.readSysReg 0xFFFF).wellFormed = true ∧
    ∀ r b v, Instr.readSysReg 0xFFFF = .writeAsicSpiRegister r b v →
      bitLengthRefused State.reset.params.bitLengthPolicy b = false :=
  ⟨by decide, by decide, witness_policy _⟩

theorem witness_FailedSendLeavesTheRegisters :
    ((facing [.sendFail 11]).link = .opened ∧ (facing [.sendFail 11]).env = .sendFail 11 :: [] ∧
      11 < (encode (facing [.sendFail 11]).implicit (.readSysReg 0x0020)).length) ∧
    ({ State.reset with link := .closed, rxClose := true } : State).link = .closed ∧
    ((facing [.close]).link = .opened ∧ (facing [.close]).env = .close :: []) := by decide

theorem witness_TimeoutHookEndsABlockedTransfer :
    (({ under hooked with env := [.cancel 11] } : State).params.timeoutHook = .present ∧
      ({ under hooked with env := [.cancel 11] } : State).link = .opened ∧
      11 < (encode (under hooked).implicit (.readSysReg 0x0020)).length) ∧
    ((facing [.cancel 0]).params.timeoutHook = .absent ∧ (facing [.cancel 0]).env = .cancel 0 :: []) ∧
    (({ under hooked with rx := [0x12], env := [.cancel 0] } : State).rx.length < 2 ∧
      ({ under hooked with rx := [0x12], env := [.cancel 0] } : State).rxClose = false) ∧
    ((facing [.cancel 0]).rx.length < 1 ∧ (facing [.cancel 0]).rxClose = false) := by decide

theorem witness_BlockedOperationStaysInProgress :
    (State.reset.link = .opened ∧ State.reset.env = []) ∧
    (({ State.reset with rx := [0x12, 0x34] } : State).rx.length < 3 ∧ State.reset.rxClose = false) ∧
    (({ State.reset with busy := some .getCount } : State).busy = some .getCount ∧
      ∃ t, step { State.reset with busy := some .getCount } = .next t) :=
  ⟨by decide, by decide, rfl, _, rfl⟩

theorem witness_ReissueDiffersInTheCountOnly :
    (facing [.sendOk, .sendOk]).env = .sendOk :: .sendOk :: [] ∧ (facing [.sendOk, .sendOk]).link = .opened ∧
    (facing [.sendFail 11, .sendOk]).env = .sendFail 11 :: .sendOk :: [] ∧
    11 < (encode (facing [.sendFail 11, .sendOk]).implicit (.readSysReg 0x0020)).length := by decide

/-- Each of the four ends of a command is met. -/
theorem witness_CommandIsAllOrNothing :
    (∃ t, exec (.readSysReg 0x0020) (facing [.sendOk]) = .next t) ∧
    (∃ t, exec (.readSysReg 0x10000) (facing [.sendOk]) = .next t) ∧
    (∃ t, exec (.readSysReg 0x0020) (facing [.sendFail 11]) = .next t) ∧
    ∃ t, exec (.readSysReg 0x0020) (facing []) = .next t :=
  ⟨⟨_, rfl⟩, ⟨_, rfl⟩, ⟨_, rfl⟩, _, rfl⟩

theorem witness_EmittedPacketsFrameThemselves :
    (Instr.readSysReg 0x0020).emitsPacket = true ∧
    ∃ t, exec (.readSysReg 0x0020) (facing [.sendOk]) = .next t ∧
      t.results = (facing [.sendOk]).results ++ [.ok .nothing] := ⟨rfl, _, rfl, rfl⟩

/-- Bytes that arrive while the send waits, with the marker absent and with it there. -/
theorem witness_CommandTakesNothingFromRx :
    (∃ t, exec (.readSysReg 0x0020) { facing [.deliver [0x34], .sendOk, .close] with rx := [0x12] } = .next t ∧
      t.rx = [0x12, 0x34] ∧ t.env = [.close]) ∧
    ∃ t, exec (.readSysReg 0x0020) { facing [.deliver [0x34], .sendOk] with rx := [0x12], rxClose := true } = .next t ∧
      t.rx = [0x12] := ⟨⟨_, rfl, rfl, rfl⟩, _, rfl, rfl⟩

/-- Both sides of the equivalence are met, at 0 and 9, and neither at 1 and 8. -/
theorem witness_BitLengthPolicyRefusesOutside1To8 :
    (0xFFFF < 65536 ∧ 0xFFFF < 65536 ∧ 0xFF < 256) ∧
    exec (.writeAsicSpiRegister 0x0102 0 0) (under cautious) = .refused .bitLengthOutside1To8 ∧
    exec (.writeAsicSpiRegister 0x0102 9 0) (under cautious) = .refused .bitLengthOutside1To8 ∧
    (∃ t, exec (.writeAsicSpiRegister 0x0102 1 0) (under cautious) = .next t) ∧
    ∃ t, exec (.writeAsicSpiRegister 0x0102 8 0) (under cautious) = .next t :=
  ⟨by decide, rfl, rfl, ⟨_, rfl⟩, _, rfl⟩

theorem witness_ReadBackTakesTheFirstBytes :
    3 ≤ ({ State.reset with rx := [0x12, 0x34, 0x56] } : State).rx.length := by decide

theorem witness_ReadBackAfterAnEarlyClose :
    ({ State.reset with rx := [0x12, 0x34], rxClose := true } : State).rxClose = true ∧
    ({ State.reset with rx := [0x12, 0x34], rxClose := true } : State).rx.length < 3 ∧ 1 ≤ 1 ∧
    2 ≤ ({ State.reset with rx := [0x12, 0x34], rxClose := true } : State).rx.length := by decide

theorem witness_FragmentsAreAccumulated :
    (facing [.deliver [0x34], .deliver [0x56], .close]).rxClose = false ∧
    (facing [.deliver [0x34], .deliver [0x56], .close]).env
      = [[0x34], [0x56]].map EnvMove.deliver ++ [.close] ∧
    2 ≤ ([] ++ [[0x34], [0x56]].flatten : List Byte).length := by decide

theorem witness_CloseWhileReadingConsumesTheBytes :
    (facing [.deliver [0x34], .deliver [0x56], .close]).env
      = [[0x34], [0x56]].map EnvMove.deliver ++ .close :: [] ∧
    ([] ++ [[0x34], [0x56]].flatten : List Byte).length < 3 := by decide

theorem witness_SetSpiFormatWritesItsByte : 255 < 256 ∧ 256 ≤ 256 := by decide

theorem witness_SetAsicIdWritesItsByte : 255 < 256 ∧ 256 ≤ 256 := by decide

theorem witness_SettersAreSeenByTheNextCommand :
    255 < 256 ∧ 0xFFFF < 65536 ∧ (facing [.sendOk]).link = .opened ∧ (facing [.sendOk]).env = .sendOk :: [] ∧
    bitLengthRefused (facing [.sendOk]).params.bitLengthPolicy 0xFFFF = false ∧
    bitLengthRefused (under cautious).params.bitLengthPolicy 8 = false := by decide

theorem witness_UnassignedSelectorIsRefused :
    ({ under wired with port := [.selected 2 ⟨0, 0, 0, false⟩] } : State).busy = none ∧
    ({ under wired with port := [.selected 2 ⟨0, 0, 0, false⟩] } : State).port = .selected 2 ⟨0, 0, 0, false⟩ :: [] ∧
    ∀ e ∈ wired.selectorMap, e.2 ≠ 2 := by decide

theorem witness_BigEndianBytesReadBack : 0xFFFF < 2 ^ (8 * 2) ∧ 0 < 2 ^ (8 * 0) ∧ 1 < 2 := by decide

theorem witness_DecodeInvertsEncode :
    (∀ i ∈ commands, i.emitsPacket = true ∧ i.wellFormed = true) ∧ 0xFF < 256 ∧ 0xFFFF < 65536 :=
  ⟨witness_commands, by decide⟩

theorem witness_EncodeInvertsDecode :
    decodePacket [0x00, 0x11, 0x3F, 0xFF, 0x00, 0x00, 0x00, 0x00, 0x00, 0x02, 0x00, 0x01, 0xAB]
      = .ok (⟨.readSysReg 0x0001, 0x3FFF, none⟩, [0xAB]) := rfl

/-- A safe state that takes a step: a command with an answer to come. -/
theorem witness_safe_asking : SafeState { asking (.host (.readSysReg 0x0020)) with env := [.sendOk] } := by
  simp [SafeState, NoFramingError, LinkMarkerAgree, HostDriven, OnlyBlockingBusy, asking, State.reset, State.resetWith,
    Request.fromHost]

/-- The step of that state is the command. -/
theorem witness_step_asking : ∃ t, step { asking (.host (.readSysReg 0x0020)) with env := [.sendOk] } = .next t ∧
    t.seq ≠ ({ asking (.host (.readSysReg 0x0020)) with env := [.sendOk] } : State).seq := ⟨_, rfl, by decide⟩

theorem witness_EveryStepKeepsSafeState :
    ∃ s t, SafeState s ∧ step s = .next t :=
  ⟨_, _, witness_safe_asking, witness_step_asking.choose_spec.1⟩

theorem witness_HostRunsNeverSeeFramingError :
    ∃ s, SafeState s ∧ ∃ t, Host.Core.run Sys2Proof.core 1 s = .next t := ⟨_, witness_safe_asking, _, rfl⟩

theorem witness_WireOnlyGrowsAndCloseIsForGood :
    (∃ t, step { asking (.host (.readSysReg 0x0020)) with env := [.sendOk] } = .next t) ∧
    ∃ t, ({ State.reset with link := .closed, rxClose := true } : State).link = .closed ∧
      step { State.reset with link := .closed, rxClose := true } = .next t := ⟨⟨_, rfl⟩, _, rfl, rfl⟩

theorem witness_CounterMovesOnlyWithAWholePacket :
    ∃ s t, HostDriven s ∧ (s.busy = none → ∀ rest, s.port ≠ .reset :: rest) ∧ step s = .next t ∧ t.seq ≠ s.seq :=
  ⟨_, _, witness_safe_asking.2.2.1, fun _ rest h => by simp [asking] at h, witness_step_asking.choose_spec⟩

theorem witness_ErrorsLeaveTheRegistersAlone :
    (∃ t, exec (.readSysReg 0x10000) State.reset = .next t ∧ t.results = State.reset.results ++ [.error .encoding]) ∧
    (∃ t, exec (.readSysReg 0) (facing [.sendFail 0]) = .next t ∧
      t.results = (facing [.sendFail 0]).results ++ [.error .transport]) ∧
    ∃ t, exec (.encodeHeader 256 0) State.reset = .next t ∧ t.results = State.reset.results ++ [.error .framing] :=
  ⟨⟨_, rfl, rfl⟩, ⟨_, rfl, rfl⟩, _, rfl, rfl⟩

/-- Five commands with an answer each, from the largest count, so that the wrap is among them. -/
def batch : State :=
  { State.reset with seq := 16383, port := commands.map .host, env := List.replicate 5 .sendOk }

theorem witness_SuccessfulSendsCountModulo16384 :
    (∀ i ∈ commands, i.emitsPacket = true ∧ i.wellFormed = true) ∧ batch.params.bitLengthPolicy = .fixed1 ∧
    batch.busy = none ∧ batch.link = .opened ∧ batch.port = commands.map Request.host ∧
    batch.env = List.replicate commands.length EnvMove.sendOk := by decide

/-- A failed command between two that succeed, a READ_BACK and a setter. -/
theorem witness_HostRunsAccountForTheirPackets :
    let ops : List Instr := [.readSysReg 0, .readSysReg 1, .setAsicId 1, .readBack 1, .readSysReg 1]
    let s : State := { facing [.sendOk, .sendFail 11, .deliver [0x12], .sendOk] with
      port := ops.map Request.host, seq := 16383 }
    (∀ i ∈ ops, i.isInternal = false) ∧ s.busy = none ∧
    ∃ t, Host.Core.run Sys2Proof.core 5 s = .next t ∧ t.busy = none ∧ t.port = [] ∧ t.seq = 1 :=
  ⟨by decide, rfl, _, rfl, rfl, rfl, by decide⟩

theorem witness_TraceHasNoEffect :
    (∀ c, Instr.readSysReg 0x0020 ≠ .setTrace c) ∧ (∃ t, exec (.readSysReg 0x0020) (facing [.sendOk]) = .next t) ∧
    (∀ c, Instr.writeAsicSpiRegister 0x0102 9 0 ≠ .setTrace c) ∧
    ∃ r, exec (.writeAsicSpiRegister 0x0102 9 0) (under cautious) = .refused r :=
  ⟨by simp, ⟨_, rfl⟩, by simp, _, rfl⟩

theorem witness_SysRegCommandsReadNoConfiguration :
    (∃ address n value, Instr.writeSysReg 0xFFFF 2 0xFFFF = .writeSysReg address n value) ∧
    (∃ t, exec (.writeSysReg 0xFFFF 2 0xFFFF) (facing [.sendOk]) = .next t) ∧
    (∃ address, Instr.readSysReg 0xFFFF = .readSysReg address) ∧
    ∃ t, exec (.readSysReg 0xFFFF) (facing [.sendOk]) = .next t :=
  ⟨⟨_, _, _, rfl⟩, ⟨_, rfl⟩, ⟨_, rfl⟩, _, rfl⟩

/-- Idle ports but for one thing. -/
def quiet : SerialIn := ⟨none, false, false, false, none, false⟩

/-- READ_SYS_REG 0x0020 at the command port. -/
def asked : SerialIn := { quiet with start := some (.readSysReg, ⟨0x0020, 0, 0, false⟩) }

/-- The byte-serial block in the middle of READ_SYS_REG 0x0020, `k` of its 12 bytes handed over. -/
def midway (phase : SerialPhase) (k : Nat) : SerialBlock :=
  { serialOf State.reset with
    phase := phase, op := some (.readSysReg 0x0020), handed := (encode State.reset.implicit (.readSysReg 0x0020)).take k }

/-- A state of each kind that meets the invariant, at the ends of the byte indexes. -/
theorem witness_SerialStepKeepsItsInvariant :
    SerialInv (serialOf State.reset) ∧ SerialInv (midway .check 0) ∧ SerialInv (midway (.hdr 0) 0) ∧
    SerialInv (midway (.hdr 9) 9) ∧ SerialInv (midway (.pay 0) 10) ∧ SerialInv (midway (.pay 1) 11) ∧
    SerialInv (midway .wait 12) ∧ SerialInv (midway .commit 12) ∧
    SerialInv { serialOf State.reset with phase := .recv 1, op := some (.readBack 2), taken := [0x12] } ∧
    SerialInv { serialOf State.reset with phase := .done (.ok (.bytes [])), op := some (.readBack 0) } :=
  ⟨⟨rfl, rfl, rfl⟩, ⟨⟨_, rfl, rfl⟩, rfl, rfl⟩, ⟨⟨_, rfl, rfl, rfl⟩, rfl, by decide, rfl⟩,
    ⟨⟨_, rfl, rfl, rfl⟩, rfl, by decide, rfl⟩, ⟨⟨_, rfl, rfl, rfl⟩, rfl, by decide, rfl⟩,
    ⟨⟨_, rfl, rfl, rfl⟩, rfl, by decide, rfl⟩, ⟨⟨_, rfl, rfl, rfl⟩, rfl, rfl⟩, ⟨⟨_, rfl, rfl, rfl⟩, rfl, rfl⟩,
    ⟨⟨2, rfl, rfl⟩, rfl⟩,
    ⟨.readBack 0, rfl, by simp [Instr.emitsPacket], fun _ => rfl, by rintro n ⟨⟩; exact .inl ⟨rfl, rfl⟩⟩⟩

/-- COMMIT is entered, and SEQ changes. -/
theorem witness_SerialStepCommits :
    (serialStep { quiet with txOk := true } (midway .wait 12)).phase = .commit ∧
    (serialStep quiet (midway .commit 12)).seq ≠ (midway .commit 12).seq := by decide

/-- Each of the three ends: 12 bytes taken and confirmed, a failure after three bytes and one in WAIT with all 12 handed
over, an oversized operand. -/
theorem witness_SerialCommandRefinesTheStep :
    State.reset.params.bitLengthPolicy = .fixed1 ∧ State.reset.link = .opened ∧
    (portInstr .readSysReg ⟨0x0020, 0, 0, false⟩).emitsPacket = true ∧
    (serialRun (asked :: quiet :: List.replicate 12 { quiet with txReady := true } ++ [{ quiet with txOk := true }, quiet])
      (serialOf State.reset)).phase = .done (.ok .nothing) ∧
    (serialRun (asked :: quiet :: List.replicate 3 { quiet with txReady := true } ++ [{ quiet with txFail := true }])
      (serialOf State.reset)).phase = .done (.error .transport) ∧
    (serialRun (asked :: quiet :: List.replicate 12 { quiet with txReady := true } ++ [{ quiet with txFail := true }])
      (serialOf State.reset)).phase = .done (.error .transport) ∧
    (serialRun [{ quiet with start := some (.readSysReg, ⟨0x10000, 0, 0, false⟩) }, quiet]
      (serialOf State.reset)).phase = .done (.error .encoding) := by decide

end Sys2Proof.Tests
end

section
/-! Byte order (00_scope.md R10): the bytes of `be` one by one, and the obligation about it. -/

namespace Sys2Proof

/-- The byte slices of R10: of n bytes, byte i has n - i - 1 bytes after it. -/
theorem be_getElem? {n i : Nat} (v : Nat) (hi : i < n) :
    (be n v)[i]? = some (BitVec.ofNat 8 (v / 2 ^ (8 * (n - i - 1)))) := by
  induction n generalizing i with
  | zero => exact absurd hi (Nat.not_lt_zero i)
  | succ n ih =>
    rw [be_succ]
    cases i with
    | zero => simp
    | succ i =>
      rw [List.getElem?_cons_succ, ih (Nat.lt_of_succ_lt_succ hi), Nat.add_sub_add_right]

/-- A number that fits n bytes is read back unchanged (R10, R53). -/
theorem beNat_be_of_lt {n v : Nat} (hv : v < 2 ^ (8 * n)) : beNat (be n v) = v := by
  rw [beNat_be, ← two_pow_eight_mul, Nat.mod_eq_of_lt hv]

/-- Settles O37: the length, the reading back and the byte slices are each a law of `be`. -/
theorem bigEndianBytesReadBack : Obligations.BigEndianBytesReadBack :=
  fun n v hv => ⟨be_length n v, beNat_be_of_lt hv, fun _ hi => be_getElem? v hi⟩

end Sys2Proof
end

section
/-! What a step runs (20_memory.md R59), and what it keeps of the environment's record (10_state.md R32): the step's
equations and its inversion, the idle move, and the obligations about reset, the idle block and the wire. -/

namespace Sys2Proof.Machine

/-! ### The step, case by case -/

theorem step_busy {s : State} {i : Instr} (hb : s.busy = some i) : step s = exec i s := by
  rw [step, hb]

theorem step_accept {s : State} {r : Request} {rest : List Request} (hb : s.busy = none) (hp : s.port = r :: rest) :
    step s = runRequest r (setPort rest s) := by
  rw [step, hb, hp]

theorem step_idle {s : State} (hb : s.busy = none) (hp : s.port = []) : step s = .next (idleMove s) := by
  rw [step, hb, hp]

/-- Everything a step that answers a next state has done. -/
theorem step_cases {s t : State} (h : step s = .next t) :
    (∃ i, s.busy = some i ∧ exec i s = .next t) ∨
    (∃ r rest, s.busy = none ∧ s.port = r :: rest ∧ runRequest r (setPort rest s) = .next t) ∨
    (s.busy = none ∧ s.port = [] ∧ t = idleMove s) := by
  cases hb : s.busy with
  | some i => exact .inl ⟨i, rfl, by rw [← step_busy hb, h]⟩
  | none =>
    cases hp : s.port with
    | cons r rest => exact .inr (.inl ⟨r, rest, rfl, rfl, by rw [← step_accept hb hp, h]⟩)
    | nil =>
      rw [step_idle hb hp] at h
      injection h with h
      exact .inr (.inr ⟨rfl, rfl, h.symm⟩)

/-- The request issues the operation, under this assignment of bit patterns (30_encoding.md R92, R95): the host none of
the internal ones, reset none at all. -/
def Request.Issues (selectorMap : List (HostOp × Nat)) (r : Request) (i : Instr) : Prop :=
  match r with
  | .host j => j = i ∧ i.isInternal = false
  | .mux j => j = i
  | .selected pattern operands => ∃ op, selectedOp selectorMap pattern = some op ∧ portInstr op operands = i
  | .reset => False

/-- Everything an accepted request that answers a next state has done: its operation, or the refusal of an unassigned
pattern, or the reset event. -/
theorem runRequest_cases {r : Request} {s t : State} (h : runRequest r s = .next t) :
    (∃ i, r.Issues s.params.selectorMap i ∧ exec i s = .next t) ∨
    (∃ pattern operands, r = .selected pattern operands ∧ selectedOp s.params.selectorMap pattern = none ∧
      t = raise .encoding s) ∨
    (r = .reset ∧ t = resetRegisters s) := by
  cases r with
  | host i =>
    simp only [runRequest, runHostOp] at h
    split at h
    · cases h
    · rename_i hi
      exact .inl ⟨i, ⟨rfl, by simpa using hi⟩, h⟩
  | mux i => exact .inl ⟨i, rfl, h⟩
  | selected pattern operands =>
    simp only [runRequest] at h
    split at h
    · rename_i op hop
      exact .inl ⟨portInstr op operands, ⟨op, hop, rfl⟩, h⟩
    · rename_i hop
      injection h with h
      exact .inr (.inl ⟨pattern, operands, rfl, hop, h.symm⟩)
  | reset =>
    injection h with h
    exact .inr (.inr ⟨rfl, h.symm⟩)

/-! ### The idle move (R32, R67) -/

section
variable {s : State} {es : List EnvMove}

theorem deliver_of_open (bs : List Byte) (h : s.rxClose = false) : deliver bs s = { s with rx := s.rx ++ bs } := by
  simp [deliver, h]

/-- Bytes after the `close` marker are dropped (log 14). -/
theorem deliver_of_marked (bs : List Byte) (h : s.rxClose = true) : deliver bs s = s := by
  rw [deliver, if_pos h]

theorem idleMove_nil (h : s.env = []) : idleMove s = s := by
  rw [idleMove, h]

theorem idleMove_deliver {bs : List Byte} (h : s.env = .deliver bs :: es) :
    idleMove s = deliver bs (setEnv es s) := by
  rw [idleMove, h]

theorem idleMove_close (h : s.env = .close :: es) : idleMove s = closeLink (setEnv es s) := by
  rw [idleMove, h]

theorem idleMove_sendOk (h : s.env = .sendOk :: es) : idleMove s = setEnv es s := by
  rw [idleMove, h]

theorem idleMove_sendFail {k : Nat} (h : s.env = .sendFail k :: es) : idleMove s = setEnv es s := by
  rw [idleMove, h]

theorem idleMove_cancel {k : Nat} (h : s.env = .cancel k :: es) : idleMove s = setEnv es s := by
  rw [idleMove, h]

end

/-- An idle move touches only the receive stream, the link and the moves to come. -/
theorem idleMove_frame (s : State) :
    SameBlock s (idleMove s) ∧ (idleMove s).wire = s.wire ∧ LinkMoved s (idleMove s) := by
  have skip : ∀ es, SameBlock s (setEnv es s) ∧ (setEnv es s).wire = s.wire ∧ LinkMoved s (setEnv es s) :=
    fun es => ⟨sameBlock_setEnv es s, rfl, .inl ⟨rfl, rfl⟩⟩
  cases h : s.env with
  | nil =>
    rw [idleMove_nil h]
    exact ⟨.refl s, rfl, .refl s⟩
  | cons m es =>
    have henv := sameBlock_setEnv es s
    cases m with
    | deliver bs =>
      rw [idleMove_deliver h]
      exact ⟨henv.trans (sameBlock_deliver bs _), rfl, .inl ⟨rfl, rfl⟩⟩
    | close =>
      rw [idleMove_close h]
      exact ⟨henv.trans (sameBlock_closeLink _), rfl, .inr ⟨rfl, rfl⟩⟩
    | sendOk => simpa only [idleMove_sendOk h] using skip es
    | sendFail k => simpa only [idleMove_sendFail h] using skip es
    | cancel k => simpa only [idleMove_cancel h] using skip es

/-! ### What every step only adds to -/

/-- From s to t bytes were only appended to `wire`, a closed link stayed closed (R32), the parameters are the same, and
at most one result came behind the earlier ones. -/
structure OnlyAdds (s t : State) : Prop where
  wire : s.wire <+: t.wire
  closed : s.link = .closed → t.link = .closed
  params : t.params = s.params
  results : ∃ rs : List Result, t.results = s.results ++ rs ∧ rs.length ≤ 1

theorem LinkMoved.closed {s t : State} (h : LinkMoved s t) (hs : s.link = .closed) : t.link = .closed := by
  rcases h with ⟨hl, -⟩ | ⟨hl, -⟩
  · exact hl.trans hs
  · exact hl

theorem OpFrame.onlyAdds {i : Instr} {s t : State} (h : OpFrame i s t) : OnlyAdds s t := by
  refine ⟨h.wire, h.link.closed, h.params, ?_⟩
  rcases h.ended with ⟨-, r, hr⟩ | ⟨-, hr, -⟩
  · exact ⟨[r], hr, by simp⟩
  · exact ⟨[], by simp [hr], by simp⟩

theorem onlyAdds_raise (e : ErrorKind) (s : State) : OnlyAdds s (raise e s) :=
  ⟨List.prefix_rfl, id, rfl, [.error e], rfl, by simp⟩

theorem onlyAdds_resetRegisters (s : State) : OnlyAdds s (resetRegisters s) :=
  ⟨List.prefix_rfl, id, rfl, [], by simp, by simp⟩

theorem onlyAdds_idleMove (s : State) : OnlyAdds s (idleMove s) := by
  obtain ⟨hblock, hwire, hlink⟩ := idleMove_frame s
  exact ⟨by simp [hwire], hlink.closed, hblock.params, [], by simp [hblock.results], by simp⟩

theorem onlyAdds_runRequest {r : Request} {s t : State} (h : runRequest r s = .next t) : OnlyAdds s t := by
  rcases runRequest_cases h with ⟨i, -, hi⟩ | ⟨-, -, -, -, rfl⟩ | ⟨-, rfl⟩
  · exact (exec_frame hi).onlyAdds
  · exact onlyAdds_raise _ s
  · exact onlyAdds_resetRegisters s

theorem onlyAdds_of_setPort {rest : List Request} {s t : State} (h : OnlyAdds (setPort rest s) t) : OnlyAdds s t :=
  ⟨h.wire, h.closed, h.params, h.results⟩

theorem step_onlyAdds {s t : State} (h : step s = .next t) : OnlyAdds s t := by
  rcases step_cases h with ⟨i, -, hi⟩ | ⟨r, rest, -, -, hr⟩ | ⟨-, -, rfl⟩
  · exact (exec_frame hi).onlyAdds
  · exact onlyAdds_of_setPort (onlyAdds_runRequest hr)
  · exact onlyAdds_idleMove s

/-- Settles O43: each of the three things a step can be only adds. -/
theorem wireOnlyGrowsAndCloseIsForGood : Obligations.WireOnlyGrowsAndCloseIsForGood := fun _ _ h =>
  have ⟨hwire, hclosed, hparams, hresults⟩ := step_onlyAdds h
  ⟨hwire, hclosed, hparams, hresults⟩

/-! ### The idle block and reset -/

/-- Settles O4: the step of an idle block is the idle move, clause by clause on the head of `env`. -/
theorem idleBlockLetsTheEnvironmentMove : Obligations.IdleBlockLetsTheEnvironmentMove := by
  intro s hb hp
  rw [step_idle hb hp]
  refine ⟨fun h => ?_, fun bs es h hc => ?_, fun bs es h hc => ?_, fun es h => ?_, fun es h => ?_, fun k es h => ?_,
    fun k es h => ?_⟩
  · rw [idleMove_nil h]
  · rw [idleMove_deliver h, deliver_of_open bs (by exact hc)]
    rfl
  · rw [idleMove_deliver h, deliver_of_marked bs (by exact hc)]
    rfl
  · rw [idleMove_close h]
    rfl
  · rw [idleMove_sendOk h]
    rfl
  · rw [idleMove_sendFail h]
    rfl
  · rw [idleMove_cancel h]
    rfl

/-- Settles O5: the default register values, and the reset event as the request an idle block accepts. -/
theorem resetWritesTheRegistersOnly : Obligations.ResetWritesTheRegistersOnly := by
  refine ⟨⟨rfl, rfl, rfl, rfl, rfl⟩, fun s rest hb hp => ?_⟩
  rw [step_accept hb hp]
  rfl

/-- Nothing has been returned, asked or begun after reset, and the link is open without its marker: each part of the
invariant holds, under any parameters. -/
theorem safeState_resetWith (p : Params) : SafeState (State.resetWith p) := by
  have hresults : NoFramingError (State.resetWith p) := List.not_mem_nil
  have hlink : LinkMarkerAgree (State.resetWith p) := by simp [LinkMarkerAgree, State.resetWith]
  have hport : ∀ r ∈ (State.resetWith p).port, r.fromHost = true := fun _ hr => absurd hr List.not_mem_nil
  have hbusy : ∀ i, (State.resetWith p).busy ≠ some i := by simp [State.resetWith]
  exact ⟨hresults, hlink, ⟨hport, fun i hi => absurd hi (hbusy i)⟩, fun i hi => absurd hi (hbusy i)⟩

/-- Settles O41, at the default parameters. -/
theorem resetIsASafeState : Obligations.ResetIsASafeState := safeState_resetWith Config.defaults

end Sys2Proof.Machine
end

section
/-! TRACE has no effect (10_state.md R24). The three configuration registers are carried along by everything below the
operations: the transport primitives, the header encoder and SEND_COMMAND neither read nor write them, so they commute
with any change of those registers. -/

namespace Sys2Proof.Machine

/-! ### Changing the configuration registers -/

/-- Change ASIC_ID, SPI_FORMAT and TRACE, each by a function of its own, and nothing else. -/
def mapConfig (fa ff : Byte → Byte) (ft : Bool → Bool) (s : State) : State :=
  { s with asicId := fa s.asicId, spiFormat := ff s.spiFormat, trace := ft s.trace }

theorem writeTrace_eq_mapConfig (b : Bool) : writeTrace b = mapConfig id id fun _ => b := rfl

/-- Change the state a send ends in. -/
def TxOutcome.map (f : State → State) : TxOutcome → TxOutcome
  | .ok s => .ok (f s)
  | .fail s => .fail (f s)
  | .blocked s => .blocked (f s)

/-- Change the state a receive ends in. -/
def RxOutcome.map (f : State → State) : RxOutcome → RxOutcome
  | .bytes bs s => .bytes bs (f s)
  | .closed s => .closed (f s)
  | .blocked s => .blocked (f s)

/-- Change the next state where there is one. -/
def mapNext (f : State → State) : Host.Outcome State Fault Refusal → Host.Outcome State Fault Refusal
  | .next s => .next (f s)
  | .fault r => .fault r
  | .refused r => .refused r

section
variable (fa ff : Byte → Byte) (ft : Bool → Bool)

theorem mapConfig_setEnv (es : List EnvMove) (s : State) :
    setEnv es (mapConfig fa ff ft s) = mapConfig fa ff ft (setEnv es s) := rfl

theorem mapConfig_deliver (bs : List Byte) (s : State) :
    deliver bs (mapConfig fa ff ft s) = mapConfig fa ff ft (deliver bs s) := rfl

theorem mapConfig_closeLink (s : State) : closeLink (mapConfig fa ff ft s) = mapConfig fa ff ft (closeLink s) := rfl

@[simp] theorem mapConfig_rx (s : State) : (mapConfig fa ff ft s).rx = s.rx := rfl
@[simp] theorem mapConfig_rxClose (s : State) : (mapConfig fa ff ft s).rxClose = s.rxClose := rfl
@[simp] theorem mapConfig_link (s : State) : (mapConfig fa ff ft s).link = s.link := rfl
@[simp] theorem mapConfig_env (s : State) : (mapConfig fa ff ft s).env = s.env := rfl
@[simp] theorem mapConfig_params (s : State) : (mapConfig fa ff ft s).params = s.params := rfl

/-! ### The transport primitives and SEND_COMMAND -/

theorem txWait_mapConfig (p : List Byte) (es : List EnvMove) (s : State) :
    txWait p es (mapConfig fa ff ft s) = (txWait p es s).map (mapConfig fa ff ft) := by
  induction es generalizing s with
  | nil => rfl
  | cons m es ih =>
    cases m with
    | deliver bs => exact ih (deliver bs (setEnv es s))
    | close => rfl
    | sendOk => rfl
    | sendFail k => rfl
    | cancel k =>
      cases hh : s.params.timeoutHook with
      | present => simp only [txWait, mapConfig_params, hh]; rfl
      | absent => simpa only [txWait, mapConfig_params, hh, mapConfig_setEnv] using ih (setEnv es s)

theorem txSendAll_mapConfig (p : List Byte) (s : State) :
    txSendAll p (mapConfig fa ff ft s) = (txSendAll p s).map (mapConfig fa ff ft) := by
  cases h : s.link with
  | closed => rw [txSendAll_closed p h, txSendAll_closed p (by exact h), TxOutcome.map]
  | opened =>
    rw [txSendAll_opened p h, txSendAll_opened p (by exact h)]
    exact txWait_mapConfig fa ff ft p s.env s

theorem rxWait_mapConfig (n : Nat) (es : List EnvMove) (s : State) :
    rxWait n es (mapConfig fa ff ft s) = (rxWait n es s).map (mapConfig fa ff ft) := by
  induction es generalizing s with
  | nil =>
    by_cases henough : n ≤ s.rx.length
    · simp only [rxWait, mapConfig_rx, henough, if_true]
      rfl
    · cases hmark : s.rxClose <;> simp only [rxWait, mapConfig_rx, mapConfig_rxClose, henough, hmark] <;> rfl
  | cons m es ih =>
    by_cases henough : n ≤ s.rx.length
    · rw [rxWait_enough _ henough, rxWait_enough _ (by exact henough)]
      rfl
    · cases hmark : s.rxClose with
      | true =>
        rw [rxWait_closed _ (Nat.not_le.1 henough) hmark, rxWait_closed _ (by simpa using henough) (by exact hmark)]
        rfl
      | false =>
        simp only [rxWait, mapConfig_rx, mapConfig_rxClose, mapConfig_params, henough, hmark, if_false,
          Bool.false_eq_true, mapConfig_setEnv, mapConfig_deliver, mapConfig_closeLink]
        cases m with
        | deliver bs => exact ih (deliver bs (setEnv es s))
        | close => exact ih (closeLink (setEnv es s))
        | sendOk => exact ih (setEnv es s)
        | sendFail k => exact ih (setEnv es s)
        | cancel k =>
          cases s.params.timeoutHook with
          | present => rfl
          | absent => exact ih (setEnv es s)

theorem endSend_map (i : Instr) (o : TxOutcome) :
    endSend i (o.map (mapConfig fa ff ft)) = mapConfig fa ff ft (endSend i o) := by
  cases o <;> rfl

theorem endReceive_map (n : Nat) (o : RxOutcome) :
    endReceive n (o.map (mapConfig fa ff ft)) = mapConfig fa ff ft (endReceive n o) := by
  cases o <;> rfl

/-- The header is built from SEQ alone of the registers (R120, R122). -/
theorem buildHeader_mapConfig (packetType dataLength : Nat) (s : State) :
    buildHeader packetType dataLength (mapConfig fa ff ft s) = buildHeader packetType dataLength s := rfl

/-- Under one and the same payload SEND_COMMAND reads no configuration register and writes none (R160). -/
theorem sendCommand_mapConfig (i : Instr) (opcode : Byte) (payload : List Byte) (s : State) :
    sendCommand i opcode payload (mapConfig fa ff ft s) = mapConfig fa ff ft (sendCommand i opcode payload s) := by
  simp only [sendCommand, buildHeader_mapConfig, txSendAll_mapConfig, endSend_map]
  cases buildHeader opcode.toNat payload.length s with
  | error e => rfl
  | ok header =>
    dsimp only
    split <;> rfl

theorem execReadBack_mapConfig (n : Nat) (s : State) :
    execReadBack n (mapConfig fa ff ft s) = mapNext (mapConfig fa ff ft) (execReadBack n s) := by
  simp only [execReadBack, rxRecvExact, mapConfig_env, rxWait_mapConfig, endReceive_map]
  split <;> rfl

end

/-! ### The operations under another TRACE -/

/-- A command's width check and then its SEND_COMMAND, under another TRACE. -/
theorem checkedSend_writeTrace (b c : Bool) (i : Instr) (opcode : Byte) (payload : List Byte) (s : State) :
    (if c then .next (sendCommand i opcode payload (writeTrace b s)) else .next (raise .encoding (writeTrace b s)))
      = mapNext (writeTrace b) (if c then .next (sendCommand i opcode payload s) else .next (raise .encoding s)) := by
  rw [writeTrace_eq_mapConfig, sendCommand_mapConfig]
  cases c <;> rfl

/-- Every operation but SET_TRACE does the same under another TRACE and hands it on. -/
theorem exec_writeTrace {i : Instr} (hi : ∀ c, i ≠ .setTrace c) (b : Bool) (s : State) :
    exec i (writeTrace b s) = mapNext (writeTrace b) (exec i s) := by
  cases i with
  | writeSysReg address n value => exact checkedSend_writeTrace b _ _ _ _ s
  | readSysReg address => exact checkedSend_writeTrace b _ _ _ _ s
  | writeAsicSpiRegister regAddr bitLength value =>
    cases hp : bitLengthRefused s.params.bitLengthPolicy bitLength with
    | true =>
      simp only [exec, execWriteAsicSpiRegister, writeTrace_params, hp, if_true]
      split <;> rfl
    | false =>
      simp only [exec, execWriteAsicSpiRegister, writeTrace_params, hp, if_false, Bool.false_eq_true]
      exact checkedSend_writeTrace b _ _ _ _ s
  | readAsicSpiExRegister regAddr bitLength => exact checkedSend_writeTrace b _ _ _ _ s
  | readBack n => exact execReadBack_mapConfig id id (fun _ => b) n s
  | setSpiFormat v =>
    simp only [exec, execSetSpiFormat]
    split <;> rfl
  | setAsicId v =>
    simp only [exec, execSetAsicId]
    split <;> rfl
  | setTrace c => exact absurd rfl (hi c)
  | getCount => rfl
  | encodeHeader packetType dataLength =>
    simp only [exec, execEncodeHeader, writeTrace_eq_mapConfig, buildHeader_mapConfig]
    cases buildHeader packetType dataLength s <;> rfl
  | current => rfl
  | incrementAfterSend => rfl

/-- Settles O48: the next state carries the other TRACE and differs in nothing else, and a refusal is the same. -/
theorem traceHasNoEffect : Obligations.TraceHasNoEffect := by
  intro i s b hi
  have hexec : exec i { s with trace := b } = mapNext (writeTrace b) (exec i s) := exec_writeTrace hi b s
  exact ⟨fun t ht => by rw [hexec, ht]; rfl, fun r hr => by rw [hexec, hr]; rfl⟩

end Sys2Proof.Machine
end

section
/-! The packet-emitting commands (42_command_encoder.md R160 to R166): a packet is a header over a payload; a command
checks its operands, then its meaning, and then hands that packet to the transport. -/

namespace Sys2Proof

/-! ### The packet as opcode and payload -/

/-- The opcode of a packet-emitting command (R84). -/
def Instr.opcode : Instr → Byte
  | .writeSysReg _ _ _ => Config.opcWriteSysReg
  | .readSysReg _ => Config.opcReadSysReg
  | .writeAsicSpiRegister _ _ _ => Config.opcWriteAsicSpiRegister
  | .readAsicSpiExRegister _ _ => Config.opcReadAsicSpiExRegister
  | _ => 0#8

/-- The payload of a packet-emitting command (R85 to R88). -/
def Instr.payload (x : Implicit) : Instr → List Byte
  | .writeSysReg address n value => be 2 address ++ [BitVec.ofNat 8 n] ++ be n value
  | .readSysReg address => be 2 address
  | .writeAsicSpiRegister regAddr bitLength value =>
    [x.asicId, x.spiFormat] ++ be 2 regAddr ++ be 2 bitLength ++ [BitVec.ofNat 8 value]
  | .readAsicSpiExRegister regAddr bitLength => [x.asicId, x.spiFormat] ++ be 2 regAddr ++ be 2 bitLength
  | _ => []

/-- The two low bytes of a number, each cut to 8 bits before it is packed. -/
theorem be_two_mod (v : Nat) : be 2 v = [BitVec.ofNat 8 (v / 256), BitVec.ofNat 8 (v % 256)] := by
  have hlow : BitVec.ofNat 8 (v % 256) = BitVec.ofNat 8 v := BitVec.eq_of_toNat_eq (by simp)
  rw [be_two, hlow]

/-- The encoding of a command is its header, which tells the payload's length, and then the payload (R63, R90). -/
theorem encode_eq_header_payload {i : Instr} (hi : i.emitsPacket = true) (x : Implicit) :
    encode x i = headerBytes i.opcode x.seq (BitVec.ofNat 16 (i.payload x).length) ++ i.payload x := by
  cases i with
  | writeSysReg address n value =>
    have hlen : (be 2 address ++ [BitVec.ofNat 8 n] ++ be n value).length = 3 + n := by
      simp
      omega
    rw [Instr.payload, hlen, List.append_assoc]
    rfl
  | readSysReg address => rfl
  | writeAsicSpiRegister regAddr bitLength value => rfl
  | readAsicSpiExRegister regAddr bitLength => rfl
  | _ => cases hi

/-- The opcode of a command is one of the four emitted packet types (R84). -/
theorem opcode_of_emitsPacket {i : Instr} (hi : i.emitsPacket = true) :
    i.opcode = 0x10 ∨ i.opcode = 0x11 ∨ i.opcode = 0xC2 ∨ i.opcode = 0xC3 := by
  cases i with
  | writeSysReg address n value => exact .inl rfl
  | readSysReg address => exact .inr (.inl rfl)
  | writeAsicSpiRegister regAddr bitLength value => exact .inr (.inr (.inl rfl))
  | readAsicSpiExRegister regAddr bitLength => exact .inr (.inr (.inr rfl))
  | _ => cases hi

/-- A well-formed command's packet has between 12 and 268 bytes (R57, R97). -/
theorem encodedLength_bounds {i : Instr} (hi : i.emitsPacket = true) (hw : i.wellFormed = true) :
    12 ≤ i.encodedLength ∧ i.encodedLength ≤ 268 := by
  cases i with
  | writeSysReg address n value =>
    simp only [Instr.wellFormed, Bool.and_eq_true, decide_eq_true_eq] at hw
    obtain ⟨⟨-, hn⟩, -⟩ := hw
    simp only [Instr.encodedLength]
    omega
  | readSysReg address => simp [Instr.encodedLength]
  | writeAsicSpiRegister regAddr bitLength value => simp [Instr.encodedLength]
  | readAsicSpiExRegister regAddr bitLength => simp [Instr.encodedLength]
  | _ => cases hi

/-- The length R97 gives a well-formed operation's encoding, for all constructors. -/
theorem encode_length (x : Implicit) {i : Instr} (hw : i.wellFormed = true) :
    (encode x i).length = i.encodedLength := by
  have hstatement : Laws.EncodingLength.Statement i := by
    cases i with
    | writeSysReg address n value => exact Laws.EncodingLength.writeSysReg address n value
    | readSysReg address => exact Laws.EncodingLength.readSysReg address
    | writeAsicSpiRegister regAddr bitLength value =>
      exact Laws.EncodingLength.writeAsicSpiRegister regAddr bitLength value
    | readAsicSpiExRegister regAddr bitLength => exact Laws.EncodingLength.readAsicSpiExRegister regAddr bitLength
    | readBack n => exact Laws.EncodingLength.readBack n
    | setSpiFormat v => exact Laws.EncodingLength.setSpiFormat v
    | setAsicId v => exact Laws.EncodingLength.setAsicId v
    | setTrace b => exact Laws.EncodingLength.setTrace b
    | getCount => exact Laws.EncodingLength.getCount
    | encodeHeader packetType dataLength => exact Laws.EncodingLength.encodeHeader packetType dataLength
    | current => exact Laws.EncodingLength.current
    | incrementAfterSend => exact Laws.EncodingLength.incrementAfterSend
  exact hstatement x hw

/-- A well-formed command's packet is ten header bytes and its payload (R63). -/
theorem encodedLength_eq_header_payload (x : Implicit) {i : Instr} (hi : i.emitsPacket = true)
    (hw : i.wellFormed = true) : i.encodedLength = 10 + (i.payload x).length := by
  rw [← encode_length x hw, encode_eq_header_payload hi, List.length_append, headerBytes_length]

/-- The first ten bytes of a command's packet parse as the header that was built (R94). -/
theorem decodeHeader_encode {i : Instr} (hi : i.emitsPacket = true) (x : Implicit) :
    decodeHeader ((encode x i).take 10)
      = some ⟨0#3, 0#5, i.opcode, 0#2, x.seq, 0#32, BitVec.ofNat 16 (i.payload x).length⟩ := by
  rw [encode_eq_header_payload hi, List.take_left' (headerBytes_length ..), decodeHeader_headerBytes]

namespace Machine

/-! ### What a command can come to -/

/-- The operation has no meaning under the bit-length policy (R164). -/
def refusedUnder (policy : BitLengthPolicy) : Instr → Bool
  | .writeAsicSpiRegister _ bitLength _ => bitLengthRefused policy bitLength
  | _ => false

theorem refusedUnder_eq_false {policy : BitLengthPolicy} {i : Instr}
    (h : ∀ r b v, i = .writeAsicSpiRegister r b v → bitLengthRefused policy b = false) :
    refusedUnder policy i = false := by
  cases i with
  | writeAsicSpiRegister regAddr bitLength value => exact h _ _ _ rfl
  | _ => rfl

/-- The width check, the refusal of R164, and SEND_COMMAND, in this order (R160). -/
theorem exec_eq_sendCommand {i : Instr} (hi : i.emitsPacket = true) (s : State) :
    exec i s =
      if operandsFit i then
        if refusedUnder s.params.bitLengthPolicy i then .refused .bitLengthOutside1To8
        else .next (sendCommand i i.opcode (i.payload s.implicit) s)
      else .next (raise .encoding s) := by
  cases i with
  | writeSysReg address n value => rfl
  | readSysReg address => rfl
  | writeAsicSpiRegister regAddr bitLength value => rfl
  | readAsicSpiExRegister regAddr bitLength => rfl
  | _ => cases hi

/-- SEND_COMMAND of a well-formed command hands its encoding to the transport: the length field holds the payload's
length, so `FramingError` is not reached (R168). -/
theorem sendCommand_eq_endSend {i : Instr} (hi : i.emitsPacket = true) (hw : i.wellFormed = true) (s : State) :
    sendCommand i i.opcode (i.payload s.implicit) s = endSend i (txSendAll (encode s.implicit i) s) := by
  have hlen := encodedLength_eq_header_payload s.implicit hi hw
  have hmax := (encodedLength_bounds hi hw).2
  rw [sendCommand_eq i i.opcode (by omega), encode_eq_header_payload hi]
  rfl

/-- Everything a packet-emitting command can come to (R160, R164, R166). -/
theorem exec_command {i : Instr} (hi : i.emitsPacket = true) (s : State) :
    exec i s =
      if i.wellFormed then
        if refusedUnder s.params.bitLengthPolicy i then .refused .bitLengthOutside1To8
        else .next (endSend i (txSendAll (encode s.implicit i) s))
      else .next (raise .encoding s) := by
  have hnot : ∀ packetType dataLength, i ≠ .encodeHeader packetType dataLength := by
    rintro packetType dataLength rfl
    cases hi
  rw [exec_eq_sendCommand hi, operandsFit_eq_wellFormed i hnot]
  cases hw : i.wellFormed with
  | true => rw [sendCommand_eq_endSend hi hw]
  | false => rfl

/-- A well-formed command that the policy does not refuse ends as its send does (R160). -/
theorem exec_command_of_wellFormed {i : Instr} {s : State} (hi : i.emitsPacket = true) (hw : i.wellFormed = true)
    (hp : refusedUnder s.params.bitLengthPolicy i = false) :
    exec i s = .next (endSend i (txSendAll (encode s.implicit i) s)) := by
  rw [exec_command hi, if_pos hw, if_neg (by simp [hp])]

/-- The only end of a send with OK is the transport's `ok`, with the whole packet on the wire (R51, R142). -/
theorem endSend_wire_of_ok {i : Instr} {p : List Byte} {s : State}
    (h : (endSend i (txSendAll p s)).results = s.results ++ [.ok .nothing]) :
    (endSend i (txSendAll p s)).wire = s.wire ++ p := by
  have hspec := txSendAll_spec p s
  split at hspec <;> rename_i t ht <;> rw [ht] at h ⊢
  · obtain ⟨-, hwire, -⟩ := hspec
    simpa [endSend] using hwire
  · obtain ⟨hblock, -⟩ := hspec
    simp [endSend, hblock.results] at h
  · obtain ⟨hblock, -⟩ := hspec
    simp [endSend, hblock.results] at h

/-- A command that ended with OK was well-formed and put its encoding on the wire (R160). -/
theorem exec_command_ok {i : Instr} {s t : State} (hi : i.emitsPacket = true) (h : exec i s = .next t)
    (hr : t.results = s.results ++ [.ok .nothing]) :
    i.wellFormed = true ∧ t.wire = s.wire ++ encode s.implicit i := by
  rw [exec_command hi] at h
  split at h
  · rename_i hw
    split at h
    · cases h
    · injection h with h
      subst h
      exact ⟨hw, endSend_wire_of_ok hr⟩
  · injection h with h
    subst h
    simp at hr

/-! ### The transport's answer at once (R51, R65, R67) -/

section
variable {s : State} {es : List EnvMove} (p : List Byte)

theorem txSendAll_sendOk (hl : s.link = .opened) (he : s.env = .sendOk :: es) :
    txSendAll p s = .ok (accepted p (setEnv es s)) := by
  rw [txSendAll_opened p hl, he, txWait]

theorem txSendAll_sendFail {k : Nat} (hl : s.link = .opened) (he : s.env = .sendFail k :: es) :
    txSendAll p s = .fail (accepted (strictPrefix k p) (setEnv es s)) := by
  rw [txSendAll_opened p hl, he, txWait]

/-- A close that comes while the send waits fails it (log 15). -/
theorem txSendAll_close (hl : s.link = .opened) (he : s.env = .close :: es) :
    txSendAll p s = .fail (closeLink (setEnv es s)) := by
  rw [txSendAll_opened p hl, he, txWait]

end

/-- A well-formed command that the transport answers with ok adds a header of ten bytes and its payload to the wire
(R160, R161). -/
theorem exec_command_sendOk {i : Instr} {s : State} {es : List EnvMove} (hi : i.emitsPacket = true)
    (hw : i.wellFormed = true) (hp : refusedUnder s.params.bitLengthPolicy i = false) (hl : s.link = .opened)
    (he : s.env = .sendOk :: es) :
    ∃ (t : State) (header : List Byte), exec i s = .next t ∧ header.length = 10 ∧
      t.wire = s.wire ++ header ++ i.payload s.implicit := by
  refine ⟨_, headerBytes i.opcode s.seq (BitVec.ofNat 16 (i.payload s.implicit).length),
    exec_command_of_wellFormed hi hw hp, headerBytes_length .., ?_⟩
  rw [txSendAll_sendOk _ hl he, encode_eq_header_payload hi, List.append_assoc]
  rfl

/-! ### The setters (43_session_ops.md R206, R207) -/

theorem exec_setAsicId {a : Nat} (ha : a < 256) (s : State) :
    exec (.setAsicId a) s = .next (finish .nothing (writeAsicId (BitVec.ofNat 8 a) s)) :=
  if_pos (by simpa [operandsFit] using ha)

theorem exec_setSpiFormat {f : Nat} (hf : f < 256) (s : State) :
    exec (.setSpiFormat f) s = .next (finish .nothing (writeSpiFormat (BitVec.ofNat 8 f) s)) :=
  if_pos (by simpa [operandsFit] using hf)

/-- The state after SET_ASIC_ID of a and SET_SPI_FORMAT of f, each ended with OK. -/
def afterSetters (a f : Byte) (s : State) : State :=
  finish .nothing (writeSpiFormat f (finish .nothing (writeAsicId a s)))

/-- The payload of the next command is taken from what the setters wrote, and from the count they left (R62, R209). -/
theorem command_after_setters {i : Instr} {s : State} {es : List EnvMove} (a f : Byte) (hi : i.emitsPacket = true)
    (hw : i.wellFormed = true) (hp : refusedUnder s.params.bitLengthPolicy i = false) (hl : s.link = .opened)
    (he : s.env = .sendOk :: es) :
    ∃ (t : State) (header : List Byte), exec i (afterSetters a f s) = .next t ∧ header.length = 10 ∧
      t.wire = s.wire ++ header ++ i.payload ⟨s.seq, a, f⟩ :=
  exec_command_sendOk (s := afterSetters a f s) hi hw hp hl he

/-! ### The obligations about sends -/

/-- Settles O18: each clause is one answer of the transport, put into the one equation of a command. -/
theorem failedSendLeavesTheRegisters : Obligations.FailedSendLeavesTheRegisters := by
  intro i s hi hw hp
  have hexec := exec_command_of_wellFormed hi hw (refusedUnder_eq_false hp)
  refine ⟨fun k es hl he hk => ?_, fun hl => ?_, fun es hl he => ?_⟩
  · rw [hexec, txSendAll_sendFail _ hl he, strictPrefix_eq hk]
    rfl
  · rw [hexec, txSendAll_closed _ hl]
    rfl
  · rw [hexec, txSendAll_close _ hl he]
    rfl

/-- Settles O24: what was sent with OK is the command's encoding, whose header tells the payload's length. -/
theorem emittedPacketsFrameThemselves : Obligations.EmittedPacketsFrameThemselves := by
  intro i s t hi h hr
  obtain ⟨hw, hwire⟩ := exec_command_ok hi h hr
  have hlen := encode_length s.implicit hw
  have hsplit := encodedLength_eq_header_payload s.implicit hi hw
  obtain ⟨hmin, hmax⟩ := encodedLength_bounds hi hw
  have hdata : (BitVec.ofNat 16 (i.payload s.implicit).length).toNat = (i.payload s.implicit).length :=
    toNat_ofNat_of_lt (by omega)
  exact ⟨encode s.implicit i, _, hwire, hlen, by omega, by omega, decodeHeader_encode hi s.implicit,
    by rw [hlen, hsplit, hdata], rfl, rfl, opcode_of_emitsPacket hi⟩

/-- Settles O35: the two setters' bytes stand in the registers the next command's payload begins with. -/
theorem settersAreSeenByTheNextCommand : Obligations.SettersAreSeenByTheNextCommand := by
  intro s a f regAddr bitLength es ha hf hr hb hl he
  refine ⟨_, afterSetters (BitVec.ofNat 8 a) (BitVec.ofNat 8 f) s, exec_setAsicId ha s, exec_setSpiFormat hf _, ?_,
    fun value hv hp => ?_⟩
  · simpa [Instr.payload, be_two_mod] using
      command_after_setters (i := .readAsicSpiExRegister regAddr bitLength) (BitVec.ofNat 8 a) (BitVec.ofNat 8 f)
        rfl (by simp [Instr.wellFormed, hr, hb]) rfl hl he
  · simpa [Instr.payload, be_two_mod] using
      command_after_setters (i := .writeAsicSpiRegister regAddr bitLength value) (BitVec.ofNat 8 a) (BitVec.ofNat 8 f)
        rfl (by simp [Instr.wellFormed, hr, hb, hv]) hp hl he

end Machine

end Sys2Proof
end

section
/-! The accepted request (20_memory.md R59; 30_encoding.md R92, R95): one equation for each kind that issues an
operation, and the obligation about the step. -/

namespace Sys2Proof.Machine

theorem runRequest_host {i : Instr} (hi : i.isInternal = false) (s : State) : runRequest (.host i) s = exec i s := by
  simp [runRequest, runHostOp, hi]

theorem runRequest_host_internal {i : Instr} (hi : i.isInternal = true) (s : State) :
    runRequest (.host i) s = .refused .internalIssuedByHost := by
  simp [runRequest, runHostOp, hi]

theorem runRequest_mux (i : Instr) (s : State) : runRequest (.mux i) s = exec i s := rfl

theorem runRequest_selected {pattern : Nat} {op : HostOp} {s : State}
    (h : selectedOp s.params.selectorMap pattern = some op) (x : PortOperands) :
    runRequest (.selected pattern x) s = exec (portInstr op x) s := by
  simp [runRequest, h]

/-- Settles O1: an operation in progress goes on, and an idle block runs what the request at the head of the port
issues. -/
theorem stepRunsTheAcceptedRequest : Obligations.StepRunsTheAcceptedRequest := by
  refine ⟨fun s i hb => step_busy hb, fun s rest hb => ⟨fun i hi hp => ?_, fun i hi hp => ?_, fun i hp => ?_,
    fun pattern x op hp hop => ?_⟩⟩
  · rw [step_accept hb hp, runRequest_host hi]
    rfl
  · rw [step_accept hb hp, runRequest_host_internal hi]
  · rw [step_accept hb hp, runRequest_mux]
    rfl
  · rw [step_accept hb hp, runRequest_selected (by exact hop)]
    rfl

end Sys2Proof.Machine
end

section
/-! The encoding (30_encoding.md R80 to R95): header, payload and packet, each read back from what was written and
written back from what was read; a table word and an unassigned selector at the port; and the obligations about them. -/

namespace Sys2Proof

/-! ### The header (R81 to R83, R94) -/

/-- The seven fields of ten bytes are fields of one and the same number. -/
theorem decodeHeader_eq_some {bs : List Byte} {h : Header} (hd : decodeHeader bs = some h) :
    bs.length = 10 ∧ headerOfBits (BitVec.ofNat 80 (beNat bs)) = h := by
  rw [decodeHeader] at hd
  split at hd
  · rename_i hlen
    exact ⟨hlen, Option.some.inj hd⟩
  · cases hd

/-- A header with its constants at 0 is given by its type, its count and its length (R83). -/
theorem Header.constantsZero_iff (h : Header) :
    h.constantsZero = true ↔ h = ⟨0#3, 0#5, h.packetType, 0#2, h.packetCount, 0#32, h.dataLength⟩ := by
  cases h
  simp [Header.constantsZero, Config.version, Config.systemNumber, Config.sequencerFlag, Config.reserved, and_assoc]

/-- The number a header with its constants at 0 was read from: nothing stands outside its three fields (R81). -/
theorem eq_of_headerOfBits {v : Nat} {t : Byte} {c : Count} {d : BitVec 16} (hv : v < 2 ^ 80)
    (h : headerOfBits (BitVec.ofNat 80 v) = ⟨0#3, 0#5, t, 0#2, c, 0#32, d⟩) :
    v = t.toNat * 2 ^ 64 + c.toNat * 2 ^ 48 + d.toNat := by
  have field : ∀ {lo len : Nat} {x : BitVec len}, (BitVec.ofNat 80 v).extractLsb' lo len = x →
      v / 2 ^ lo % 2 ^ len = x.toNat := by
    rintro lo len x rfl
    rw [BitVec.extractLsb'_toNat, BitVec.toNat_ofNat, Nat.shiftRight_eq_div_pow, Nat.mod_eq_of_lt hv]
  simp only [headerOfBits, Header.mk.injEq] at h
  obtain ⟨hversion, hsystem, htype, hsequencer, hcount, hreserved, hlength⟩ := h
  replace hversion := field hversion
  replace hsystem := field hsystem
  replace htype := field htype
  replace hsequencer := field hsequencer
  replace hcount := field hcount
  replace hreserved := field hreserved
  replace hlength := field hlength
  simp only [BitVec.toNat_ofNat, Nat.zero_mod] at hversion hsystem hsequencer hreserved
  omega

/-- Ten bytes whose constant fields are 0 are the header of the other three fields: no bit is dropped (R82, R83). -/
theorem eq_headerBytes_of_decodeHeader {bs : List Byte} {h : Header} (hd : decodeHeader bs = some h)
    (hz : h.constantsZero = true) : bs = headerBytes h.packetType h.packetCount h.dataLength := by
  obtain ⟨hlen, hbits⟩ := decodeHeader_eq_some hd
  have hlt : beNat bs < 2 ^ 80 := by
    have hbytes := beNat_lt bs
    rw [hlen] at hbytes
    omega
  have hnum := eq_of_headerOfBits hlt (hbits.trans (h.constantsZero_iff.1 hz))
  calc bs = be 10 (beNat bs) := by rw [← hlen, be_beNat]
    _ = be 10 (beNat (headerBytes h.packetType h.packetCount h.dataLength)) := by rw [hnum, beNat_headerBytes]
    _ = headerBytes h.packetType h.packetCount h.dataLength := be_beNat (headerBytes ..)

/-- The bare header of R120 read back. -/
theorem decode_headerBytes (t : Byte) (c : Count) (d : BitVec 16) :
    decode (headerBytes t c d) = .ok (⟨.encodeHeader t.toNat d.toNat, c, none⟩, []) := by
  rw [decode, if_pos (headerBytes_length t c d), decodeBareHeader, decodeHeader_headerBytes]
  rfl

/-! ### The payload, read back (R85 to R88) -/

/-- Two bytes hold the 16-bit operands (R166). -/
theorem beNat_two_bytes {v : Nat} (hv : v < 65536) : beNat [BitVec.ofNat 8 (v / 256), BitVec.ofNat 8 v] = v := by
  rw [← be_two]
  exact beNat_be_of_lt (n := 2) hv

theorem decodeWriteSysReg_payload (x : Implicit) {address n value : Nat}
    (hw : (Instr.writeSysReg address n value).wellFormed = true) :
    decodeWriteSysReg ((Instr.writeSysReg address n value).payload x) = some (.writeSysReg address n value) := by
  simp only [Instr.wellFormed, Bool.and_eq_true, decide_eq_true_eq] at hw
  obtain ⟨⟨haddress, hn⟩, hvalue⟩ := hw
  have hlength : (BitVec.ofNat 8 n).toNat = n := toNat_ofNat_of_lt (w := 8) hn
  have hread : beNat (be n value) = value := by rw [beNat_be, Nat.mod_eq_of_lt hvalue]
  simp [Instr.payload, be_two, decodeWriteSysReg, hlength, hread, beNat_two_bytes haddress]

theorem decodeReadSysReg_payload (x : Implicit) {address : Nat} (hw : (Instr.readSysReg address).wellFormed = true) :
    decodeReadSysReg ((Instr.readSysReg address).payload x) = some (.readSysReg address) := by
  have haddress : address < 65536 := of_decide_eq_true hw
  simp [Instr.payload, be_two, decodeReadSysReg, beNat_two_bytes haddress]

theorem decodeWriteAsic_payload (x : Implicit) {regAddr bitLength value : Nat}
    (hw : (Instr.writeAsicSpiRegister regAddr bitLength value).wellFormed = true) :
    decodeWriteAsic ((Instr.writeAsicSpiRegister regAddr bitLength value).payload x)
      = some (.writeAsicSpiRegister regAddr bitLength value, x.asicId, x.spiFormat) := by
  simp only [Instr.wellFormed, Bool.and_eq_true, decide_eq_true_eq] at hw
  obtain ⟨⟨hreg, hbits⟩, hvalue⟩ := hw
  have hvalue : (BitVec.ofNat 8 value).toNat = value := toNat_ofNat_of_lt (w := 8) hvalue
  simp only [Instr.payload, be_two, List.cons_append, List.nil_append, decodeWriteAsic, beNat_two_bytes hreg,
    beNat_two_bytes hbits, hvalue]

theorem decodeReadAsic_payload (x : Implicit) {regAddr bitLength : Nat}
    (hw : (Instr.readAsicSpiExRegister regAddr bitLength).wellFormed = true) :
    decodeReadAsic ((Instr.readAsicSpiExRegister regAddr bitLength).payload x)
      = some (.readAsicSpiExRegister regAddr bitLength, x.asicId, x.spiFormat) := by
  simp only [Instr.wellFormed, Bool.and_eq_true, decide_eq_true_eq] at hw
  obtain ⟨hreg, hbits⟩ := hw
  simp only [Instr.payload, be_two, List.cons_append, List.nil_append, decodeReadAsic, beNat_two_bytes hreg,
    beNat_two_bytes hbits]

/-! ### The payload, written back (R85 to R88) -/

theorem beNat_pair_lt (b1 b0 : Byte) : beNat [b1, b0] < 65536 := by
  simpa using beNat_lt [b1, b0]

theorem be_beNat_pair (b1 b0 : Byte) : be 2 (beNat [b1, b0]) = [b1, b0] := be_beNat [b1, b0]

/-- The bytes p, under the packet type t, are the payload of the well-formed command i whose configuration registers
hold a and f, whatever the count. -/
structure IsPayloadOf (i : Instr) (t : Byte) (p : List Byte) (a f : Byte) : Prop where
  emitsPacket : i.emitsPacket = true
  wellFormed : i.wellFormed = true
  opcode : t = i.opcode
  payload : ∀ c, p = i.payload ⟨c, a, f⟩

theorem decodeWriteSysReg_eq_some {p : List Byte} {i : Instr} (h : decodeWriteSysReg p = some i) (a f : Byte) :
    IsPayloadOf i Config.opcWriteSysReg p a f := by
  unfold decodeWriteSysReg at h
  split at h
  · rename_i a1 a0 n vs
    split at h
    · rename_i hlen
      cases h
      have hvalue := beNat_lt vs
      have hback := be_beNat vs
      rw [hlen] at hvalue hback
      refine ⟨rfl, ?_, rfl, fun _ => ?_⟩
      · simpa [Instr.wellFormed, beNat_pair_lt, hvalue] using n.isLt
      · simp [Instr.payload, be_beNat_pair, hback]
    · cases h
  · cases h

theorem decodeReadSysReg_eq_some {p : List Byte} {i : Instr} (h : decodeReadSysReg p = some i) (a f : Byte) :
    IsPayloadOf i Config.opcReadSysReg p a f := by
  unfold decodeReadSysReg at h
  split at h
  · rename_i a1 a0
    cases h
    exact ⟨rfl, decide_eq_true (beNat_pair_lt a1 a0), rfl, fun _ => (be_beNat_pair a1 a0).symm⟩
  · cases h

theorem decodeWriteAsic_eq_some {p : List Byte} {i : Instr} {a f : Byte} (h : decodeWriteAsic p = some (i, a, f)) :
    IsPayloadOf i Config.opcWriteAsicSpiRegister p a f := by
  unfold decodeWriteAsic at h
  split at h
  · rename_i r1 r0 b1 b0 v
    cases h
    refine ⟨rfl, ?_, rfl, fun _ => ?_⟩
    · simpa [Instr.wellFormed, beNat_pair_lt] using v.isLt
    · simp [Instr.payload, be_beNat_pair]
  · cases h

theorem decodeReadAsic_eq_some {p : List Byte} {i : Instr} {a f : Byte} (h : decodeReadAsic p = some (i, a, f)) :
    IsPayloadOf i Config.opcReadAsicSpiExRegister p a f := by
  unfold decodeReadAsic at h
  split at h
  · cases h
    exact ⟨rfl, by simp [Instr.wellFormed, beNat_pair_lt], rfl, fun _ => by simp [Instr.payload, be_beNat_pair]⟩
  · cases h

/-! ### The payload by its packet type (R84, R89, R92) -/

theorem checkType_eq_ok_iff (t : Byte) :
    checkType t = .ok () ↔ t = Config.opcWriteSysReg ∨ t = Config.opcReadSysReg
      ∨ t = Config.opcWriteAsicSpiRegister ∨ t = Config.opcReadAsicSpiExRegister := by
  rw [checkType]
  split
  · rename_i hformat
    exact iff_of_true rfl hformat
  · rename_i hformat
    refine iff_of_false ?_ hformat
    split <;> simp

theorem checkType_opcode {i : Instr} (hi : i.emitsPacket = true) : checkType i.opcode = .ok () :=
  (checkType_eq_ok_iff _).2 (opcode_of_emitsPacket hi)

theorem decodePayload_writeSysReg (p : List Byte) :
    decodePayload Config.opcWriteSysReg p = (decodeWriteSysReg p).map fun i => (i, none) := rfl

theorem decodePayload_readSysReg (p : List Byte) :
    decodePayload Config.opcReadSysReg p = (decodeReadSysReg p).map fun i => (i, none) := rfl

theorem decodePayload_writeAsic (p : List Byte) :
    decodePayload Config.opcWriteAsicSpiRegister p = (decodeWriteAsic p).map fun r => (r.1, some r.2) := rfl

theorem decodePayload_readAsic (p : List Byte) :
    decodePayload Config.opcReadAsicSpiExRegister p = (decodeReadAsic p).map fun r => (r.1, some r.2) := rfl

/-- A well-formed command's payload, under its opcode, reads back as the command with its configuration bytes. -/
theorem decodePayload_payload (x : Implicit) {i : Instr} (hi : i.emitsPacket = true) (hw : i.wellFormed = true) :
    decodePayload i.opcode (i.payload x) = some (i, Machine.configBytes x i) := by
  cases i with
  | writeSysReg address n value => rw [Instr.opcode, decodePayload_writeSysReg, decodeWriteSysReg_payload x hw]; rfl
  | readSysReg address => rw [Instr.opcode, decodePayload_readSysReg, decodeReadSysReg_payload x hw]; rfl
  | writeAsicSpiRegister regAddr bitLength value =>
    rw [Instr.opcode, decodePayload_writeAsic, decodeWriteAsic_payload x hw]; rfl
  | readAsicSpiExRegister regAddr bitLength =>
    rw [Instr.opcode, decodePayload_readAsic, decodeReadAsic_payload x hw]; rfl
  | _ => cases hi

/-- A payload that was read, under a type with a format, is the payload of the command it was read as. -/
theorem isPayloadOf_of_decodePayload {t : Byte} {p : List Byte} {i : Instr} {config : Option (Byte × Byte)}
    (ht : checkType t = .ok ()) (h : decodePayload t p = some (i, config)) :
    IsPayloadOf i t p (config.getD (0, 0)).1 (config.getD (0, 0)).2 := by
  rcases (checkType_eq_ok_iff t).1 ht with rfl | rfl | rfl | rfl
  · rw [decodePayload_writeSysReg, Option.map_eq_some_iff] at h
    obtain ⟨j, hj, ⟨⟩⟩ := h
    exact decodeWriteSysReg_eq_some hj _ _
  · rw [decodePayload_readSysReg, Option.map_eq_some_iff] at h
    obtain ⟨j, hj, ⟨⟩⟩ := h
    exact decodeReadSysReg_eq_some hj _ _
  · rw [decodePayload_writeAsic, Option.map_eq_some_iff] at h
    obtain ⟨r, hr, ⟨⟩⟩ := h
    exact decodeWriteAsic_eq_some hr
  · rw [decodePayload_readAsic, Option.map_eq_some_iff] at h
    obtain ⟨r, hr, ⟨⟩⟩ := h
    exact decodeReadAsic_eq_some hr

/-! ### The packet (R63, R90) -/

/-- A header over a payload of the length it tells is read as that payload, and what follows is left (R63). -/
theorem decodePacket_headerBytes {t : Byte} {p : List Byte} {i : Instr} {config : Option (Byte × Byte)}
    (ht : checkType t = .ok ()) (hp : p.length < 65536) (h : decodePayload t p = some (i, config)) (c : Count)
    (rest : List Byte) :
    decodePacket (headerBytes t c (BitVec.ofNat 16 p.length) ++ p ++ rest) = .ok (⟨i, c, config⟩, rest) := by
  have hlen : (BitVec.ofNat 16 p.length).toNat = p.length := toNat_ofNat_of_lt (w := 16) hp
  have hten := headerBytes_length t c (BitVec.ofNat 16 p.length)
  have hzero := (Header.constantsZero_iff ⟨0#3, 0#5, t, 0#2, c, 0#32, BitVec.ofNat 16 p.length⟩).2 rfl
  have hshort : ¬ (p ++ rest).length < p.length := by simp
  rw [List.append_assoc, decodePacket, List.take_left' hten, List.drop_left' hten, decodeHeader_headerBytes]
  simp only [hzero, if_true, ht, hlen, if_neg hshort, List.take_left, List.drop_left, h]

/-- Everything a packet that was accepted is made of: its header, a payload of the length the header tells, and the
bytes after it. -/
theorem decodePacket_eq_ok {bs rest : List Byte} {d : Decoded} (hd : decodePacket bs = .ok (d, rest)) :
    ∃ (t : Byte) (p : List Byte), bs = headerBytes t d.count (BitVec.ofNat 16 p.length) ++ p ++ rest ∧
      checkType t = .ok () ∧ decodePayload t p = some (d.instr, d.config) := by
  unfold decodePacket at hd
  split at hd
  · cases hd
  rename_i h hheader
  split at hd
  · rename_i hzero
    split at hd
    · cases hd
    rename_i htype
    split at hd
    · cases hd
    rename_i hlong
    split at hd
    · cases hd
    rename_i i config hpayload
    cases hd
    have hlen : ((bs.drop 10).take h.dataLength.toNat).length = h.dataLength.toNat :=
      List.length_take_of_le (Nat.le_of_not_lt hlong)
    refine ⟨h.packetType, (bs.drop 10).take h.dataLength.toNat, ?_, htype, hpayload⟩
    rw [hlen, BitVec.ofNat_toNat, BitVec.setWidth_eq, ← eq_headerBytes_of_decodeHeader hheader hzero,
      List.append_assoc, List.take_append_drop, List.take_append_drop]
  · cases hd

/-! ### The obligations about packets -/

/-- A well-formed command's payload fits the header's length field (R97). -/
theorem payload_length_lt (x : Implicit) {i : Instr} (hi : i.emitsPacket = true) (hw : i.wellFormed = true) :
    (i.payload x).length < 65536 := by
  have hlen := encodedLength_eq_header_payload x hi hw
  have hmax := (encodedLength_bounds hi hw).2
  omega

theorem decodePacket_encode (x : Implicit) {i : Instr} (rest : List Byte) (hi : i.emitsPacket = true)
    (hw : i.wellFormed = true) :
    decodePacket (encode x i ++ rest) = .ok (⟨i, x.seq, Machine.configBytes x i⟩, rest) := by
  rw [encode_eq_header_payload hi]
  exact decodePacket_headerBytes (checkType_opcode hi) (payload_length_lt x hi hw) (decodePayload_payload x hi hw)
    x.seq rest

theorem decode_encodeHeader (x : Implicit) {t d : Nat} (ht : t < 256) (hd : d < 65536) :
    decode (encode x (.encodeHeader t d)) = .ok (⟨.encodeHeader t d, x.seq, none⟩, []) := by
  rw [encode, decode_headerBytes, toNat_ofNat_of_lt (w := 8) ht, toNat_ofNat_of_lt (w := 16) hd]

/-- Settles O38: a packet is read as its header and then as the payload under its opcode, and a bare header as its
fields. -/
theorem decodeInvertsEncode : Obligations.DecodeInvertsEncode :=
  ⟨fun x _ rest hi hw => decodePacket_encode x rest hi hw, fun _ _ _ _ _ _ => ⟨rfl, rfl, rfl, rfl⟩,
    fun x _ _ ht hd => decode_encodeHeader x ht hd⟩

/-- Settles O39: what was accepted is a header over the payload of the command it was read as. -/
theorem encodeInvertsDecode : Obligations.EncodeInvertsDecode := by
  intro bs rest d hd
  obtain ⟨t, p, rfl, htype, hpayload⟩ := decodePacket_eq_ok hd
  have hread := isPayloadOf_of_decodePayload htype hpayload
  refine ⟨hread.emitsPacket, hread.wellFormed, ?_⟩
  rw [encode_eq_header_payload hread.emitsPacket, ← hread.payload d.count, ← hread.opcode]

/-- Settles O3, by running the decoder on each of the five byte sequences. -/
theorem writtenPacketsDecode : Obligations.WrittenPacketsDecode := ⟨rfl, rfl, rfl, rfl, rfl⟩

namespace Machine

/-! ### A table word and an unassigned selector at the port (R92, R95, R98) -/

/-- The request made for an operation issues it, the internal ones through the mux (R95). -/
theorem runRequest_requestFor (i : Instr) (s : State) : runRequest (requestFor i) s = exec i s := by
  cases hi : i.isInternal with
  | true => rw [requestFor, if_pos hi, runRequest_mux]
  | false => rw [requestFor, hi, if_neg Bool.false_ne_true, runRequest_host hi]

theorem withFetchWord_of_decode {nbits w : Nat} {i : Instr} (h : decodeTableWord nbits w = some i) (s : State) :
    s.withFetchWord nbits w = { s with busy := none, port := requestFor i :: s.port } := by
  rw [State.withFetchWord, h]

/-- Settles O2: the word's instruction stands at the head of an idle block's port, and its request issues it. -/
theorem fetchedTableWordIsRun : Obligations.FetchedTableWordIsRun := by
  intro s nbits w i h
  rw [withFetchWord_of_decode h, step_accept rfl rfl, runRequest_requestFor]
  rfl

/-- A pattern the map gives to no operation selects none (R92). -/
theorem selectedOp_eq_none {selectorMap : List (HostOp × Nat)} {pattern : Nat}
    (h : ∀ e ∈ selectorMap, e.2 ≠ pattern) : selectedOp selectorMap pattern = none := by
  induction selectorMap with
  | nil => rfl
  | cons e rest ih =>
    obtain ⟨hhead, hrest⟩ := List.forall_mem_cons.1 h
    rw [selectedOp, if_neg hhead, ih hrest]

theorem runRequest_unassigned {pattern : Nat} {s : State} (h : selectedOp s.params.selectorMap pattern = none)
    (x : PortOperands) : runRequest (.selected pattern x) s = .next (raise .encoding s) := by
  simp only [runRequest, h]

/-- Settles O36: an unassigned pattern selects no operation, so the request ends with EncodingError. -/
theorem unassignedSelectorIsRefused : Obligations.UnassignedSelectorIsRefused := by
  intro s pattern x rest hb hp hmap
  rw [step_accept hb hp, runRequest_unassigned (by exact selectedOp_eq_none hmap)]
  rfl

end Machine

end Sys2Proof
end

section
/-! ENCODE_HEADER (40_header_codec.md R120 to R128): what it comes to on any operands, the ten bytes as the byte table
writes them, and the three header values read back from them. -/

namespace Sys2Proof

/-- The byte table of R82 under the operands as numbers, each low byte written `mod 256` (R128). -/
theorem headerBytes_ofNat {t d : Nat} (c : Count) (hd : d < 65536) :
    headerBytes (BitVec.ofNat 8 t) c (BitVec.ofNat 16 d) =
      [0x00, BitVec.ofNat 8 t, BitVec.ofNat 8 (c.toNat / 256), BitVec.ofNat 8 (c.toNat % 256),
        0x00, 0x00, 0x00, 0x00, BitVec.ofNat 8 (d / 256), BitVec.ofNat 8 (d % 256)] := by
  have low : ∀ v, BitVec.ofNat 8 (v % 256) = BitVec.ofNat 8 v := fun v => BitVec.eq_of_toNat_eq (by simp)
  rw [headerBytes_eq, toNat_ofNat_of_lt (w := 16) hd, low, low]
  rfl

/-- No two headers have the same ten bytes: the parse tells them apart (R94, R127). -/
theorem headerBytes_injective {t t' : Byte} {c c' : Count} {d d' : BitVec 16}
    (h : headerBytes t c d = headerBytes t' c' d') : t = t' ∧ c = c' ∧ d = d' := by
  have hparse := congrArg decodeHeader h
  rw [decodeHeader_headerBytes, decodeHeader_headerBytes] at hparse
  cases hparse
  exact ⟨rfl, rfl, rfl⟩

/-- Operands that fit their field are the same number where they are the same field. -/
theorem eq_of_ofNat_eq {w v v' : Nat} (hv : v < 2 ^ w) (hv' : v' < 2 ^ w)
    (h : BitVec.ofNat w v = BitVec.ofNat w v') : v = v' :=
  calc v = (BitVec.ofNat w v).toNat := (toNat_ofNat_of_lt hv).symm
    _ = (BitVec.ofNat w v').toNat := by rw [h]
    _ = v' := toNat_ofNat_of_lt hv'

namespace Machine

/-- A header is built for operands in range only, and it is the one the byte table gives (R120, R125). -/
theorem buildHeader_eq_ok_iff {t d : Nat} {s : State} {bs : List Byte} :
    buildHeader t d s = .ok bs ↔
      (t < 256 ∧ d < 65536) ∧ headerBytes (BitVec.ofNat 8 t) s.seq (BitVec.ofNat 16 d) = bs := by
  rw [buildHeader_eq]
  split
  · rename_i hfits
    simp [hfits]
  · rename_i hfits
    simp [hfits]

/-- Everything ENCODE_HEADER can come to (R120, R124, R125). -/
theorem exec_encodeHeader_eq (t d : Nat) (s : State) :
    exec (.encodeHeader t d) s =
      if t < 256 ∧ d < 65536 then
        .next (finish (.bytes (headerBytes (BitVec.ofNat 8 t) s.seq (BitVec.ofNat 16 d))) s)
      else .next (raise .framing s) := by
  change execEncodeHeader t d s = _
  rw [execEncodeHeader, buildHeader_eq]
  by_cases hfits : t < 256 ∧ d < 65536
  · rw [if_pos hfits, if_pos hfits]
  · rw [if_neg hfits, if_neg hfits]

/-- Settles O6: operands in range are answered with the header's bytes, and those are the byte table's. -/
theorem encodeHeaderReturnsTheByteTable : Obligations.EncodeHeaderReturnsTheByteTable := by
  intro s t d ht hd
  rw [exec_encodeHeader_eq, if_pos ⟨ht, hd⟩, headerBytes_ofNat s.seq hd]
  rfl

/-- Settles O7: an operand out of range leaves only the error branch. -/
theorem encodeHeaderNeverTruncates : Obligations.EncodeHeaderNeverTruncates := by
  intro s t d hout
  rw [exec_encodeHeader_eq, if_neg (by omega)]
  rfl

/-- Settles O8: the parse of the ten bytes gives the fields back, so equal bytes had equal fields, and an operand in
range is the number its field holds. -/
theorem headerRoundTripIsExact : Obligations.HeaderRoundTripIsExact := by
  constructor
  · intro s t d ht hd
    refine ⟨headerBytes (BitVec.ofNat 8 t) s.seq (BitVec.ofNat 16 d), ?_, headerBytes_length .., ?_⟩
    · rw [exec_encodeHeader_eq, if_pos ⟨ht, hd⟩]
      rfl
    · exact decodeHeader_headerBytes ..
  · intro s s' t d t' d' bs h h'
    obtain ⟨⟨ht, hd⟩, hbytes⟩ := buildHeader_eq_ok_iff.1 h
    obtain ⟨⟨ht', hd'⟩, hbytes'⟩ := buildHeader_eq_ok_iff.1 h'
    obtain ⟨htype, hcount, hlength⟩ := headerBytes_injective (hbytes.trans hbytes'.symm)
    exact ⟨eq_of_ofNat_eq (w := 8) ht ht' htype, eq_of_ofNat_eq (w := 16) hd hd' hlength, hcount⟩

end Machine

end Sys2Proof
end

section
/-! The sequence counter (41_sequence_counter.md R140 to R148): what one host operation does to the count and to the
wire, the steps and runs that account for it, and commands answered with ok one after another. -/

namespace Sys2Proof

/-! ### Consecutive commands on the wire (R63, R144) -/

/-- The packets of commands sent one after another from the count c, under the configuration bytes a and f. -/
def sentBytes (a f : Byte) : Count → List Instr → List Byte
  | _, [] => []
  | c, i :: is => encode ⟨c, a, f⟩ i ++ sentBytes a f (c + 1#14) is

/-- What those packets tell. -/
def sentPackets (a f : Byte) : Count → List Instr → List Decoded
  | _, [] => []
  | c, i :: is => ⟨i, c, Machine.configBytes ⟨c, a, f⟩ i⟩ :: sentPackets a f (c + 1#14) is

/-- The framing takes one packet off the front and goes on behind it (R63). -/
theorem splitPackets_of_decodePacket {bs rest : List Byte} {d : Decoded} (h : decodePacket bs = .ok (d, rest))
    (fuel : Nat) : splitPackets (fuel + 1) bs = (splitPackets fuel rest).map fun ds => d :: ds := by
  cases bs with
  | nil => cases h
  | cons b bs => rw [splitPackets, h]

theorem splitPackets_sentBytes (a f : Byte) (c : Count) {is : List Instr}
    (h : ∀ i ∈ is, i.emitsPacket = true ∧ i.wellFormed = true) :
    splitPackets is.length (sentBytes a f c is) = some (sentPackets a f c is) := by
  induction is generalizing c with
  | nil => rfl
  | cons i is ih =>
    obtain ⟨⟨hi, hw⟩, his⟩ := List.forall_mem_cons.1 h
    rw [sentBytes, List.length_cons, splitPackets_of_decodePacket (decodePacket_encode _ _ hi hw), ih _ his]
    rfl

theorem sentPackets_instr (a f : Byte) (c : Count) (is : List Instr) :
    (sentPackets a f c is).map Decoded.instr = is := by
  induction is generalizing c with
  | nil => rfl
  | cons i is ih => rw [sentPackets, List.map_cons, ih]

/-- The count after the largest one is 0 (R141). -/
theorem count_succ_toNat (c : Count) : (c + 1#14).toNat = (c.toNat + 1) % 16384 := BitVec.toNat_add c 1#14

theorem sentPackets_count (a f : Byte) (c : Count) (is : List Instr) :
    (sentPackets a f c is).map (fun d => d.count.toNat)
      = (List.range is.length).map fun j => (c.toNat + j) % 16384 := by
  induction is generalizing c with
  | nil => rfl
  | cons i is ih =>
    have hfirst : (c.toNat + 0) % 16384 = c.toNat := Nat.mod_eq_of_lt c.isLt
    have hlater : ∀ j, ((c + 1#14).toNat + j) % 16384 = (c.toNat + (j + 1)) % 16384 := fun j => by
      rw [count_succ_toNat]
      omega
    rw [sentPackets, List.map_cons, ih, List.length_cons, List.range_succ_eq_map, List.map_cons, List.map_map, hfirst]
    exact congrArg _ (List.map_congr_left fun j _ => hlater j)

namespace Machine

/-! ### The three counter operations (R140, R141, R148) -/

theorem currentCount_toNat (s : State) : (currentCount s).toNat = s.seq.toNat :=
  BitVec.toNat_setWidth_of_le (by decide)

/-- Settles O9: the value is SEQ widened, so it is below 2^14 as SEQ is. -/
theorem currentReturnsTheCount : Obligations.CurrentReturnsTheCount := fun s =>
  ⟨currentCount s, currentCount_toNat s, currentCount_toNat s ▸ s.seq.isLt, rfl⟩

/-- Settles O10: the next count, the wrap included, is `count_succ_toNat`. -/
theorem incrementAdvancesModulo16384 : Obligations.IncrementAdvancesModulo16384 := fun s =>
  ⟨s.seq + 1#14, count_succ_toNat s.seq, rfl⟩

/-- Settles O11: GET_COUNT returns what CURRENT does. -/
theorem getCountReturnsTheCount : Obligations.GetCountReturnsTheCount := fun s =>
  ⟨currentCount s, currentCount_toNat s, rfl⟩

/-! ### Runs of the machine -/

theorem coreRun_succ_next {M : Host.Core} {s t : M.State} (h : M.step s = .next t) (n : Nat) :
    M.run (n + 1) s = M.run n t := by
  rw [Host.Core.run, h]

theorem coreRun_succ_refused {M : Host.Core} {s : M.State} {r : M.Refusal} (h : M.step s = .refused r) (n : Nat) :
    M.run (n + 1) s = .refused r := by
  rw [Host.Core.run, h]

theorem run_succ_of_step {s t : State} (h : step s = .next t) (n : Nat) :
    Host.Core.run core (n + 1) s = Host.Core.run core n t := coreRun_succ_next (M := core) h n

/-- A run that answers a state has answered one at its first step. -/
theorem exists_step_of_run_succ {n : Nat} {s u : State} (h : Host.Core.run core (n + 1) s = .next u) :
    ∃ t, step s = .next t ∧ Host.Core.run core n t = .next u := by
  cases hstep : step s with
  | next t => exact ⟨t, rfl, (run_succ_of_step hstep n).symm.trans h⟩
  | fault r => cases r
  | refused r => cases (coreRun_succ_refused (M := core) hstep n).symm.trans h

/-! ### One host operation, accounted for (R142, R144) -/

/-- From s to t the operation i goes on waiting, and nothing it has to account for has moved (R238). -/
structure Waits (i : Instr) (s t : State) : Prop where
  busy : t.busy = some i
  results : t.results = s.results
  wire : t.wire = s.wire
  seq : t.seq = s.seq

/-- From s to t the operation i ended with the result r and the bytes p on the wire, and the count with it. -/
structure Ends (i : Instr) (r : Result) (p : List Byte) (s t : State) : Prop where
  busy : t.busy = none
  results : t.results = s.results ++ [r]
  wire : t.wire = s.wire ++ p
  account : OperationAccount s.seq i r p t.seq

theorem operationAccount_sent {c : Count} {i : Instr} {p : List Byte} {d : Decoded} (hi : i.emitsPacket = true)
    (hd : decodePacket p = .ok (d, [])) (hinstr : d.instr = i) (hcount : d.count = c) :
    OperationAccount c i (.ok .nothing) p (c + 1#14) := by
  rw [OperationAccount, if_pos ⟨hi, rfl⟩]
  exact ⟨rfl, d, hd, hinstr, hcount⟩

theorem operationAccount_error {c : Count} {i : Instr} {e : ErrorKind} {p : List Byte}
    (h : p = [] ∨ ∃ q d, p <+: q ∧ p.length < q.length ∧ decodePacket q = .ok (d, []) ∧ d.instr = i ∧ d.count = c) :
    OperationAccount c i (.error e) p c := by
  rw [OperationAccount, if_neg (by simp)]
  exact ⟨rfl, h⟩

theorem operationAccount_silent {i : Instr} (hi : i.emitsPacket = false) (c : Count) (r : Result) :
    OperationAccount c i r [] c := by
  rw [OperationAccount, if_neg (by simp [hi])]
  exact ⟨rfl, .inl rfl⟩

/-- A host operation that emits no packet leaves the count and the wire alone, READ_BACK waiting or not (R143). -/
theorem exec_silent {i : Instr} {s t : State} (he : i.emitsPacket = false) (hi : i.isInternal = false)
    (h : exec i s = .next t) : t.seq = s.seq ∧ t.wire = s.wire := by
  cases i with
  | readBack n =>
    simp only [exec, execReadBack] at h
    split at h <;> injection h with h <;> subst h
    · exact ⟨rfl, rfl⟩
    · have hspec := rxWait_spec n s.env s
      rw [rxRecvExact]
      split at hspec <;> rename_i u hu <;> rw [hu] <;> obtain ⟨hblock, hwire, -⟩ := hspec <;>
        exact ⟨hblock.seq, hwire⟩
  | setSpiFormat v =>
    simp only [exec, execSetSpiFormat] at h
    split at h <;> injection h with h <;> subst h <;> exact ⟨rfl, rfl⟩
  | setAsicId v =>
    simp only [exec, execSetAsicId] at h
    split at h <;> injection h with h <;> subst h <;> exact ⟨rfl, rfl⟩
  | setTrace b =>
    cases h
    exact ⟨rfl, rfl⟩
  | getCount =>
    cases h
    exact ⟨rfl, rfl⟩
  | encodeHeader packetType dataLength => cases hi
  | current => cases hi
  | incrementAfterSend => cases hi
  | writeSysReg address n value => cases he
  | readSysReg address => cases he
  | writeAsicSpiRegister regAddr bitLength value => cases he
  | readAsicSpiExRegister regAddr bitLength => cases he

/-- The send of a well-formed command waits, or ends with OK and its whole packet, or with an error and less of it. -/
theorem endSend_accounted {i : Instr} (hi : i.emitsPacket = true) (hw : i.wellFormed = true) (s : State) :
    Waits i s (endSend i (txSendAll (encode s.implicit i) s)) ∨
      ∃ r p, Ends i r p s (endSend i (txSendAll (encode s.implicit i) s)) := by
  have hdecode := decodePacket_encode s.implicit [] hi hw
  rw [List.append_nil] at hdecode
  have hne : encode s.implicit i ≠ [] := fun hnil => by
    rw [hnil] at hdecode
    cases hdecode
  have hspec := txSendAll_spec (encode s.implicit i) s
  split at hspec <;> rename_i t ht <;> rw [ht]
  · obtain ⟨hblock, hwire, -⟩ := hspec
    refine .inr ⟨.ok .nothing, encode s.implicit i, rfl, by simp [endSend, hblock.results], hwire, ?_⟩
    rw [show (endSend i (.ok t)).seq = s.seq + 1#14 by simp [endSend, hblock.seq]]
    exact operationAccount_sent hi hdecode rfl rfl
  · obtain ⟨hblock, ⟨k, hwire⟩, -⟩ := hspec
    refine .inr ⟨.error .transport, strictPrefix k (encode s.implicit i), rfl, by simp [endSend, hblock.results],
      hwire, ?_⟩
    rw [show (endSend i (.fail t)).seq = s.seq from hblock.seq]
    exact operationAccount_error
      (.inr ⟨_, _, strictPrefix_isPrefix k _, strictPrefix_length hne, hdecode, rfl, rfl⟩)
  · obtain ⟨hblock, hwire, -⟩ := hspec
    exact .inl ⟨rfl, hblock.results, hwire, hblock.seq⟩

/-- Every host operation waits or ends accounted for. -/
theorem exec_accounted {i : Instr} {s t : State} (hi : i.isInternal = false) (h : exec i s = .next t) :
    Waits i s t ∨ ∃ r p, Ends i r p s t := by
  cases he : i.emitsPacket with
  | false =>
    obtain ⟨hseq, hwire⟩ := exec_silent he hi h
    rcases (exec_frame h).ended with ⟨hbusy, r, hresults⟩ | ⟨hbusy, hresults, -⟩
    · exact .inr ⟨r, [], hbusy, hresults, by simp [hwire], hseq ▸ operationAccount_silent he s.seq r⟩
    · exact .inl ⟨hbusy, hresults, hwire, hseq⟩
  | true =>
    rw [exec_command he] at h
    split at h
    · rename_i hw
      split at h
      · cases h
      · injection h with h
        subst h
        exact endSend_accounted he hw s
    · injection h with h
      subst h
      exact .inr ⟨.error .encoding, [], rfl, rfl, by simp, operationAccount_error (.inl rfl)⟩

/-! ### The count moves only with a whole packet (R142, R143, R145) -/

/-- What is to be found in a step that moved the count. -/
def CountedPacket (s t : State) : Prop :=
  t.seq = s.seq + 1#14 ∧ t.results = s.results ++ [.ok .nothing] ∧
    ∃ (p : List Byte) (d : Decoded), t.wire = s.wire ++ p ∧ decodePacket p = .ok (d, []) ∧ d.count = s.seq

theorem Ends.countedPacket {i : Instr} {r : Result} {p : List Byte} {s t : State} (h : Ends i r p s t)
    (hne : t.seq ≠ s.seq) : CountedPacket s t := by
  obtain ⟨-, hresults, hwire, haccount⟩ := h
  rw [OperationAccount] at haccount
  split at haccount
  · rename_i hsent
    obtain ⟨hseq, d, hdecode, -, hcount⟩ := haccount
    exact ⟨hseq, hsent.2 ▸ hresults, p, d, hwire, hdecode, hcount⟩
  · exact absurd haccount.1 hne

theorem exec_countedPacket {i : Instr} {s t : State} (hi : i.isInternal = false) (h : exec i s = .next t)
    (hne : t.seq ≠ s.seq) : CountedPacket s t := by
  rcases exec_accounted hi h with hwaits | ⟨r, p, hends⟩
  · exact absurd hwaits.seq hne
  · exact hends.countedPacket hne

/-- A pattern names none of the internal operations (R95). -/
theorem portInstr_not_internal (op : HostOp) (x : PortOperands) : (portInstr op x).isInternal = false := by
  cases op <;> rfl

/-- A host's request issues none of the internal operations (R95, R230). -/
theorem Request.Issues.not_internal {selectorMap : List (HostOp × Nat)} {r : Request} {i : Instr}
    (h : r.Issues selectorMap i) (hr : r.fromHost = true) : i.isInternal = false := by
  cases r with
  | host j => exact h.2
  | mux j => cases hr
  | selected pattern x =>
    obtain ⟨op, -, rfl⟩ := h
    exact portInstr_not_internal op x
  | reset => exact h.elim

/-- Settles O44: of what a step can be, reset is excluded and only a host operation's end moves the count. -/
theorem counterMovesOnlyWithAWholePacket : Obligations.CounterMovesOnlyWithAWholePacket := by
  rintro s t ⟨hport, hbusy⟩ hreset h hne
  rcases step_cases h with ⟨i, hb, hi⟩ | ⟨r, rest, hb, hp, hr⟩ | ⟨-, -, rfl⟩
  · exact exec_countedPacket (hbusy i hb) hi hne
  · have hhost : r.fromHost = true := hport r (by simp [hp])
    rcases runRequest_cases hr with ⟨i, hissues, hi⟩ | ⟨-, -, -, -, rfl⟩ | ⟨rfl, -⟩
    · exact exec_countedPacket (s := setPort rest s) (hissues.not_internal hhost) hi hne
    · exact absurd rfl hne
    · exact absurd hp (hreset hb rest)
  · exact absurd (idleMove_frame s).1.seq hne

/-! ### Runs of host operations (R59, R144) -/

/-- The operations that have not ended: the one in progress, then those at the port, all the host's. -/
structure Outstanding (s : State) (ops : List Instr) : Prop where
  pending : s.busy.toList.map Request.host ++ s.port = ops.map Request.host
  host : ∀ i ∈ ops, i.isInternal = false

theorem Outstanding.eq_nil {s : State} {ops : List Instr} (h : Outstanding s ops) (hb : s.busy = none)
    (hp : s.port = []) : ops = [] := by
  simpa [hb, hp] using h.pending

/-- The outstanding operation at the head is issued, or there is none and the environment moves. -/
theorem step_of_outstanding {s t : State} {ops : List Instr} (ho : Outstanding s ops) (h : step s = .next t) :
    (∃ i rest, ops = i :: rest ∧ exec i (setPort (rest.map Request.host) s) = .next t) ∨
    (ops = [] ∧ t = idleMove s) := by
  have hpending := ho.pending
  rcases step_cases h with ⟨i, hb, hi⟩ | ⟨r, rest, hb, hp, hr⟩ | ⟨hb, hp, rfl⟩
  · rw [hb] at hpending
    obtain ⟨j, js, rfl, ⟨⟩, hport⟩ := List.map_eq_cons_iff.1 hpending.symm
    exact .inl ⟨i, js, rfl, by rw [show setPort (js.map Request.host) s = s by rw [hport]; rfl, hi]⟩
  · rw [hb, hp] at hpending
    obtain ⟨j, js, rfl, rfl, rfl⟩ := List.map_eq_cons_iff.1 hpending.symm
    rw [runRequest_host (ho.host j (by simp))] at hr
    exact .inl ⟨j, js, rfl, hr⟩
  · exact .inr ⟨ho.eq_nil hb hp, rfl⟩

/-- A step leaves what is outstanding and what has been accounted for, or ends the operation at the head. -/
theorem step_accounted {s t : State} {ops : List Instr} (ho : Outstanding s ops) (h : step s = .next t) :
    (Outstanding t ops ∧ t.results = s.results ∧ t.wire = s.wire ∧ t.seq = s.seq) ∨
    ∃ i rest r p, ops = i :: rest ∧ Outstanding t rest ∧ Ends i r p s t := by
  rcases step_of_outstanding ho h with ⟨i, rest, rfl, hi⟩ | ⟨rfl, rfl⟩
  · obtain ⟨hhead, hrest⟩ := List.forall_mem_cons.1 ho.host
    have hport : t.port = rest.map Request.host := (exec_frame hi).port
    rcases exec_accounted hhead hi with ⟨hbusy, hresults, hwire, hseq⟩ | ⟨r, p, hbusy, hresults, hwire, haccount⟩
    · exact .inl ⟨⟨by rw [hbusy, hport]; rfl, ho.host⟩, hresults, hwire, hseq⟩
    · exact .inr ⟨i, rest, r, p, rfl, ⟨by rw [hbusy, hport]; rfl, hrest⟩, hbusy, hresults, hwire, haccount⟩
  · obtain ⟨hblock, hwire, -⟩ := idleMove_frame s
    exact .inl ⟨⟨by rw [hblock.busy, hblock.port]; exact ho.pending, ho.host⟩, hblock.results, hwire, hblock.seq⟩

/-- A run after which nothing is outstanding has a result and its bytes for each operation. -/
theorem run_accounted {n : Nat} {s t : State} {ops : List Instr} (ho : Outstanding s ops)
    (h : Host.Core.run core n s = .next t) (hb : t.busy = none) (hp : t.port = []) :
    ∃ (rs : List Result) (pieces : List (List Byte)),
      t.results = s.results ++ rs ∧ t.wire = s.wire ++ pieces.flatten ∧ RunAccount s.seq ops rs pieces t.seq := by
  induction n generalizing s ops with
  | zero =>
    injection h with h
    subst h
    rw [ho.eq_nil hb hp]
    exact ⟨[], [], by simp, by simp, rfl⟩
  | succ n ih =>
    obtain ⟨u, hstep, hrun⟩ := exists_step_of_run_succ h
    rcases step_accounted ho hstep with ⟨hu, hresults, hwire, hseq⟩ | ⟨i, rest, r, p, rfl, hu, hends⟩
    · rw [← hresults, ← hwire, ← hseq]
      exact ih hu hrun
    · obtain ⟨rs, pieces, hrs, hpieces, haccount⟩ := ih hu hrun
      exact ⟨r :: rs, p :: pieces, by simp [hrs, hends.results], by simp [hpieces, hends.wire],
        u.seq, hends.account, haccount⟩

theorem sentCount_cons (i : Instr) (ops : List Instr) (r : Result) (rs : List Result) :
    sentCount (i :: ops) (r :: rs) =
      sentCount ops rs + if i.emitsPacket = true ∧ r = .ok .nothing then 1 else 0 := by
  simp only [sentCount, List.zip_cons_cons, List.filter_cons, Bool.and_eq_true, decide_eq_true_eq]
  split <;> simp

theorem OperationAccount.toNat {c c' : Count} {i : Instr} {r : Result} {p : List Byte}
    (h : OperationAccount c i r p c') :
    c'.toNat = (c.toNat + if i.emitsPacket = true ∧ r = .ok .nothing then 1 else 0) % 16384 := by
  rw [OperationAccount] at h
  split at h
  · rename_i hsent
    rw [if_pos hsent, h.1, count_succ_toNat]
  · rename_i hsent
    rw [if_neg hsent, h.1, Nat.add_zero, Nat.mod_eq_of_lt c.isLt]

/-- The count of a run is moved by its commands that ended with OK (R144). -/
theorem RunAccount.toNat {c c' : Count} {ops : List Instr} {rs : List Result} {pieces : List (List Byte)}
    (h : RunAccount c ops rs pieces c') : c'.toNat = (c.toNat + sentCount ops rs) % 16384 := by
  induction c, ops, rs, pieces, c' using RunAccount.induct with
  | case1 c c' =>
    rw [show c' = c from h]
    exact (Nat.mod_eq_of_lt c.isLt).symm
  | case2 c i ops r rs p pieces c' ih =>
    obtain ⟨m, hfirst, hrest⟩ := h
    rw [ih m hrest, hfirst.toNat, sentCount_cons]
    omega
  | case3 => simp_all [RunAccount]

/-- Settles O47: the run is accounted for step by step, and its account gives the count. -/
theorem hostRunsAccountForTheirPackets : Obligations.HostRunsAccountForTheirPackets := by
  intro s t ops n hops hb hp hrun htb htp
  have ho : Outstanding s ops := ⟨by rw [hb, hp]; rfl, hops⟩
  obtain ⟨rs, pieces, hresults, hwire, haccount⟩ := run_accounted ho hrun htb htp
  exact ⟨rs, pieces, hresults, hwire, haccount, haccount.toNat⟩

/-! ### Commands answered with ok (R144) -/

/-- Commands wait at the port of an idle block on an open link, each with the transport's ok to come. -/
structure ReadyToSend (commands : List Instr) (s : State) : Prop where
  policy : s.params.bitLengthPolicy = .fixed1
  idle : s.busy = none
  opened : s.link = .opened
  port : s.port = commands.map Request.host
  answers : s.env = List.replicate commands.length .sendOk

theorem refusedUnder_fixed1 (i : Instr) : refusedUnder .fixed1 i = false := by
  cases i <;> rfl

theorem not_internal_of_emitsPacket {i : Instr} (hi : i.emitsPacket = true) : i.isInternal = false := by
  cases i with
  | encodeHeader packetType dataLength => cases hi
  | current => cases hi
  | incrementAfterSend => cases hi
  | _ => rfl

/-- The first of the commands is sent whole in one step, and the others are ready as it was. -/
theorem ReadyToSend.step {i : Instr} {commands : List Instr} {s : State} (h : ReadyToSend (i :: commands) s)
    (hi : i.emitsPacket = true) (hw : i.wellFormed = true) :
    ∃ t, step s = .next t ∧ ReadyToSend commands t ∧ t.seq = s.seq + 1#14 ∧ t.asicId = s.asicId ∧
      t.spiFormat = s.spiFormat ∧ t.wire = s.wire ++ encode s.implicit i := by
  obtain ⟨hpolicy, hidle, hopened, hport, hanswers⟩ := h
  rw [step_accept hidle hport, runRequest_host (not_internal_of_emitsPacket hi),
    exec_command_of_wellFormed hi hw (by rw [setPort_params, hpolicy, refusedUnder_fixed1]),
    txSendAll_sendOk _ (by exact hopened) (by exact hanswers)]
  exact ⟨_, rfl, ⟨hpolicy, rfl, hopened, rfl, rfl⟩, rfl, rfl, rfl, rfl⟩

/-- As many steps as commands send them all, with consecutive counts. -/
theorem ReadyToSend.run {commands : List Instr} {s : State} (h : ReadyToSend commands s)
    (hc : ∀ i ∈ commands, i.emitsPacket = true ∧ i.wellFormed = true) :
    ∃ t, Host.Core.run core commands.length s = .next t ∧
      t.seq.toNat = (s.seq.toNat + commands.length) % 16384 ∧
      t.wire = s.wire ++ sentBytes s.asicId s.spiFormat s.seq commands := by
  induction commands generalizing s with
  | nil => exact ⟨s, rfl, (Nat.mod_eq_of_lt s.seq.isLt).symm, (List.append_nil _).symm⟩
  | cons i commands ih =>
    obtain ⟨⟨hi, hw⟩, hrest⟩ := List.forall_mem_cons.1 hc
    obtain ⟨u, hstep, hu, hseq, hasic, hspi, hwire⟩ := h.step hi hw
    obtain ⟨t, hrun, hcount, hsent⟩ := ih hu hrest
    refine ⟨t, (run_succ_of_step hstep _).trans hrun, ?_, ?_⟩
    · rw [hcount, hseq, count_succ_toNat, List.length_cons]
      omega
    · rw [hsent, hwire, hseq, hasic, hspi, List.append_assoc]
      rfl

/-- Settles O46: the machine puts `sentBytes` on the wire, which splits into `sentPackets`. -/
theorem successfulSendsCountModulo16384 : Obligations.SuccessfulSendsCountModulo16384 := by
  intro s commands hc hpolicy hidle hopened hport hanswers
  have hready : ReadyToSend commands s := ⟨hpolicy, hidle, hopened, hport, hanswers⟩
  obtain ⟨t, hrun, hseq, hwire⟩ := hready.run hc
  exact ⟨t, _, _, hrun, hseq, hwire, splitPackets_sentBytes _ _ _ hc, sentPackets_instr .., sentPackets_count ..⟩

end Machine

end Sys2Proof
end

section
/-! The contract of the four commands (42_command_encoder.md R160 to R172): their encodings byte by byte, the two things
a command that answers can have come to, and the obligations about what it sends, refuses, reads and leaves alone. -/

namespace Sys2Proof

/-! ### Operands that fit (R166) -/

theorem wellFormed_writeSysReg_iff {address n value : Nat} :
    (Instr.writeSysReg address n value).wellFormed = true ↔ address < 65536 ∧ n < 256 ∧ value < 2 ^ (8 * n) := by
  simp [Instr.wellFormed, two_pow_eight_mul, and_assoc]

theorem wellFormed_readSysReg_iff {address : Nat} :
    (Instr.readSysReg address).wellFormed = true ↔ address < 65536 := by
  simp [Instr.wellFormed]

theorem wellFormed_writeAsicSpiRegister_iff {regAddr bitLength value : Nat} :
    (Instr.writeAsicSpiRegister regAddr bitLength value).wellFormed = true ↔
      regAddr < 65536 ∧ bitLength < 65536 ∧ value < 256 := by
  simp [Instr.wellFormed, and_assoc]

theorem wellFormed_readAsicSpiExRegister_iff {regAddr bitLength : Nat} :
    (Instr.readAsicSpiExRegister regAddr bitLength).wellFormed = true ↔ regAddr < 65536 ∧ bitLength < 65536 := by
  simp [Instr.wellFormed]

/-! ### The four packets byte by byte (R82, R85 to R88) -/

theorem encode_writeSysReg (x : Implicit) {n : Nat} (hn : n < 256) (address value : Nat) :
    encode x (.writeSysReg address n value) =
      [0x00, 0x10, BitVec.ofNat 8 (x.seq.toNat / 256), BitVec.ofNat 8 (x.seq.toNat % 256), 0x00, 0x00, 0x00, 0x00,
        BitVec.ofNat 8 ((3 + n) / 256), BitVec.ofNat 8 ((3 + n) % 256),
        BitVec.ofNat 8 (address / 256), BitVec.ofNat 8 (address % 256), BitVec.ofNat 8 n] ++ be n value := by
  rw [encode, headerBytes_ofNat x.seq (by omega), be_two_mod]
  rfl

theorem encode_readSysReg (x : Implicit) (address : Nat) :
    encode x (.readSysReg address) =
      [0x00, 0x11, BitVec.ofNat 8 (x.seq.toNat / 256), BitVec.ofNat 8 (x.seq.toNat % 256), 0x00, 0x00, 0x00, 0x00,
        0x00, 0x02, BitVec.ofNat 8 (address / 256), BitVec.ofNat 8 (address % 256)] := by
  rw [encode, headerBytes_ofNat x.seq (by omega), be_two_mod]
  rfl

theorem encode_writeAsicSpiRegister (x : Implicit) (regAddr bitLength value : Nat) :
    encode x (.writeAsicSpiRegister regAddr bitLength value) =
      [0x00, 0xC2, BitVec.ofNat 8 (x.seq.toNat / 256), BitVec.ofNat 8 (x.seq.toNat % 256), 0x00, 0x00, 0x00, 0x00,
        0x00, 0x07, x.asicId, x.spiFormat, BitVec.ofNat 8 (regAddr / 256), BitVec.ofNat 8 (regAddr % 256),
        BitVec.ofNat 8 (bitLength / 256), BitVec.ofNat 8 (bitLength % 256), BitVec.ofNat 8 value] := by
  rw [encode, headerBytes_ofNat x.seq (by omega), be_two_mod, be_two_mod]
  rfl

theorem encode_readAsicSpiExRegister (x : Implicit) (regAddr bitLength : Nat) :
    encode x (.readAsicSpiExRegister regAddr bitLength) =
      [0x00, 0xC3, BitVec.ofNat 8 (x.seq.toNat / 256), BitVec.ofNat 8 (x.seq.toNat % 256), 0x00, 0x00, 0x00, 0x00,
        0x00, 0x06, x.asicId, x.spiFormat, BitVec.ofNat 8 (regAddr / 256), BitVec.ofNat 8 (regAddr % 256),
        BitVec.ofNat 8 (bitLength / 256), BitVec.ofNat 8 (bitLength % 256)] := by
  rw [encode, headerBytes_ofNat x.seq (by omega), be_two_mod, be_two_mod]
  rfl

/-! ### The packet under another count (R172) -/

/-- The payload is made of operands and configuration bytes; the count is in the header only (R85 to R88). -/
theorem payload_withSeq (i : Instr) (x : Implicit) (c : Count) : i.payload { x with seq := c } = i.payload x := by
  cases i <;> rfl

/-- The count is in header bytes 2 and 3 only (R82): the bytes before and behind them are the same under any count. -/
theorem encode_withSeq {i : Instr} (hi : i.emitsPacket = true) (x : Implicit) (c : Count) :
    (encode { x with seq := c } i).take 2 = (encode x i).take 2 ∧
      (encode { x with seq := c } i).drop 4 = (encode x i).drop 4 := by
  rw [encode_eq_header_payload hi, encode_eq_header_payload hi, payload_withSeq]
  exact ⟨rfl, rfl⟩

/-- The count that the first ten bytes of a command's packet tell (R94). -/
theorem packetCount_encode {i : Instr} (hi : i.emitsPacket = true) (x : Implicit) :
    (decodeHeader ((encode x i).take 10)).map Header.packetCount = some x.seq := by
  rw [decodeHeader_encode hi]
  rfl

namespace Machine

/-! ### What a command comes to -/

/-- What the bit-length policy refuses (R164). -/
theorem bitLengthRefused_eq_true_iff {policy : BitLengthPolicy} {bitLength : Nat} :
    bitLengthRefused policy bitLength = true ↔
      policy = .refuseOutside1To8 ∧ (bitLength = 0 ∨ 8 < bitLength) := by
  cases policy with
  | fixed1 => simp [bitLengthRefused]
  | refuseOutside1To8 => simp [bitLengthRefused]

/-- Operands that do not fit end a command before anything else is looked at (R166). -/
theorem exec_command_of_not_wellFormed {i : Instr} (hi : i.emitsPacket = true) (hw : ¬ i.wellFormed = true)
    (s : State) : exec i s = .next (raise .encoding s) := by
  rw [exec_command hi, if_neg hw]

/-- A command that answers a next state was refused for its operands, or was sent. -/
theorem exec_command_cases {i : Instr} {s t : State} (hi : i.emitsPacket = true) (h : exec i s = .next t) :
    t = raise .encoding s ∨ (i.wellFormed = true ∧ t = endSend i (txSendAll (encode s.implicit i) s)) := by
  rw [exec_command hi] at h
  split at h
  · rename_i hw
    split at h
    · cases h
    · injection h with h
      exact .inr ⟨hw, h.symm⟩
  · injection h with h
    exact .inl h.symm

/-- The end of a command whose bytes p the transport has taken, with es the environment's moves to come (R142). -/
def afterSend (p : List Byte) (es : List EnvMove) (s : State) : State :=
  { s with seq := s.seq + 1, wire := s.wire ++ p, env := es, busy := none, results := s.results ++ [.ok .nothing] }

/-- The end of a command the transport failed after the bytes p, with es the environment's moves to come (R65). -/
def afterFailedSend (p : List Byte) (es : List EnvMove) (s : State) : State :=
  { s with wire := s.wire ++ p, env := es, busy := none, results := s.results ++ [.error .transport] }

section
variable {i : Instr} {s : State} {es : List EnvMove} (hi : i.emitsPacket = true) (hw : i.wellFormed = true)
  (hp : refusedUnder s.params.bitLengthPolicy i = false) (hl : s.link = .opened)
include hi hw hp hl

/-- The transport's ok puts exactly the encoding on the wire, under the registers of the moment (R160). -/
theorem exec_command_eq_afterSend (he : s.env = .sendOk :: es) :
    exec i s = .next (afterSend (encode s.implicit i) es s) := by
  rw [exec_command_of_wellFormed hi hw hp, txSendAll_sendOk _ hl he]
  rfl

/-- A send that fails after k bytes leaves those of the encoding on the wire (R65). -/
theorem exec_command_eq_afterFailedSend {k : Nat} (he : s.env = .sendFail k :: es)
    (hk : k < (encode s.implicit i).length) :
    exec i s = .next (afterFailedSend ((encode s.implicit i).take k) es s) := by
  rw [exec_command_of_wellFormed hi hw hp, txSendAll_sendFail _ hl he, strictPrefix_eq hk]
  rfl

end

/-- The three ends of a send, with the registers and the results it ends with told from those before it: the wait for
the transport's answer has not touched them. -/
theorem endSend_txSendAll (i : Instr) (p : List Byte) (s : State) :
    endSend i (txSendAll p s) =
      match txSendAll p s with
      | .ok t => { t with seq := s.seq + 1, busy := none, results := s.results ++ [.ok .nothing] }
      | .fail t => { t with busy := none, results := s.results ++ [.error .transport] }
      | .blocked t => { t with busy := some i } := by
  have hspec := txSendAll_spec p s
  cases ht : txSendAll p s with
  | ok t =>
    rw [ht] at hspec
    obtain ⟨hblock, -⟩ := hspec
    rw [← hblock.seq, ← hblock.results]
    rfl
  | fail t =>
    rw [ht] at hspec
    obtain ⟨hblock, -⟩ := hspec
    rw [← hblock.results]
    rfl
  | blocked t => rfl

/-! ### The obligations about the four packets -/

/-- Settles O12: `afterSend` with the encoding written out. -/
theorem writeSysRegSendsItsPacket : Obligations.WriteSysRegSendsItsPacket := by
  intro s address n value es ha hn hv hl he
  rw [exec_command_eq_afterSend rfl (wellFormed_writeSysReg_iff.2 ⟨ha, hn, hv⟩) rfl hl he, encode_writeSysReg _ hn]
  rfl

/-- Settles O13, as O12. -/
theorem readSysRegSendsItsPacket : Obligations.ReadSysRegSendsItsPacket := by
  intro s address es ha hl he
  rw [exec_command_eq_afterSend rfl (wellFormed_readSysReg_iff.2 ha) rfl hl he, encode_readSysReg]
  rfl

/-- Settles O14: under either form of the hypothesis the policy does not refuse the command. -/
theorem writeAsicSpiRegisterSendsItsPacket : Obligations.WriteAsicSpiRegisterSendsItsPacket := by
  intro s regAddr bitLength value es hr hb hv hpolicy hl he
  have hp : refusedUnder s.params.bitLengthPolicy (.writeAsicSpiRegister regAddr bitLength value) = false := by
    refine Bool.eq_false_iff.2 fun hrefused => ?_
    obtain ⟨hrefuse, hout⟩ := bitLengthRefused_eq_true_iff.1 hrefused
    rcases hpolicy with hfixed | hin
    · cases hrefuse.symm.trans hfixed
    · omega
  rw [exec_command_eq_afterSend rfl (wellFormed_writeAsicSpiRegister_iff.2 ⟨hr, hb, hv⟩) hp hl he,
    encode_writeAsicSpiRegister]
  rfl

/-- Settles O15, as O12. -/
theorem readAsicSpiExRegisterSendsItsPacket : Obligations.ReadAsicSpiExRegisterSendsItsPacket := by
  intro s regAddr bitLength es hr hb hl he
  rw [exec_command_eq_afterSend rfl (wellFormed_readAsicSpiExRegister_iff.2 ⟨hr, hb⟩) rfl hl he,
    encode_readAsicSpiExRegister]
  rfl

/-! ### The obligations about the checks -/

/-- Settles O16: the checks of R166 are the command's well-formedness. -/
theorem oversizedOperandsEndWithEncodingError : Obligations.OversizedOperandsEndWithEncodingError := fun s =>
  ⟨fun _ _ _ h => exec_command_of_not_wellFormed rfl (mt wellFormed_writeSysReg_iff.1 h) s,
    fun _ h => exec_command_of_not_wellFormed rfl (mt wellFormed_readSysReg_iff.1 h) s,
    fun _ _ _ h => exec_command_of_not_wellFormed rfl (mt wellFormed_writeAsicSpiRegister_iff.1 h) s,
    fun _ _ h => exec_command_of_not_wellFormed rfl (mt wellFormed_readAsicSpiExRegister_iff.1 h) s⟩

/-- Settles O26: the operands fit, so only the policy is left to refuse the command. -/
theorem bitLengthPolicyRefusesOutside1To8 : Obligations.BitLengthPolicyRefusesOutside1To8 := by
  intro s regAddr bitLength value hr hb hv
  rw [exec_command rfl, if_pos (wellFormed_writeAsicSpiRegister_iff.2 ⟨hr, hb, hv⟩), ← bitLengthRefused_eq_true_iff,
    refusedUnder]
  cases bitLengthRefused s.params.bitLengthPolicy bitLength <;> simp

/-! ### The obligations about the contract -/

/-- Settles O17: the send of the encoding, and its end in terms of the state before. -/
theorem commandHandsItsEncodingToTheTransport : Obligations.CommandHandsItsEncodingToTheTransport := by
  intro i s hi hw hp
  have hsend := exec_command_of_wellFormed hi hw (refusedUnder_eq_false hp)
  exact hsend.trans (congrArg Host.Outcome.next (endSend_txSendAll i _ s))

/-- Settles O21: each of the two issues is one answer of the transport, the second one from the state the first ended
in. Its packet is the encoding under the count of that state. -/
theorem reissueDiffersInTheCountOnly : Obligations.ReissueDiffersInTheCountOnly := by
  intro i s es hi hw hp hl
  have hp : refusedUnder s.params.bitLengthPolicy i = false := refusedUnder_eq_false hp
  refine ⟨fun he => ?_, fun k he hk => ?_⟩
  · have hfirst := exec_command_eq_afterSend hi hw hp hl he
    have hsecond := exec_command_eq_afterSend (s := afterSend (encode s.implicit i) (.sendOk :: es) s) hi hw hp hl rfl
    obtain ⟨htake, hdrop⟩ := encode_withSeq hi s.implicit (s.seq + 1)
    exact ⟨_, _, encode s.implicit i, encode { s.implicit with seq := s.seq + 1 } i, hfirst, hsecond, rfl, rfl,
      htake.symm, hdrop.symm, by rw [encode_length _ hw, encode_length _ hw], packetCount_encode hi _,
      packetCount_encode hi _⟩
  · have hfirst := exec_command_eq_afterFailedSend hi hw hp hl he hk
    have hsecond := exec_command_eq_afterSend
      (s := afterFailedSend ((encode s.implicit i).take k) (.sendOk :: es) s) hi hw hp hl rfl
    exact ⟨_, _, _, rfl, hfirst, hsecond, rfl, rfl, rfl, rfl⟩

/-- Settles O22: EncodingError is the width check; the other three ends are those of the send. -/
theorem commandIsAllOrNothing : Obligations.CommandIsAllOrNothing := by
  intro i s t hi h
  rcases exec_command_cases hi h with rfl | ⟨hw, rfl⟩
  · exact .inr (.inl rfl)
  · have hpos : 0 < (encode s.implicit i).length := by
      have := (encodedLength_bounds hi hw).1
      rw [encode_length _ hw]
      omega
    have hspec := txSendAll_spec (encode s.implicit i) s
    rw [endSend_txSendAll]
    cases ht : txSendAll (encode s.implicit i) s with
    | ok t =>
      rw [ht] at hspec
      obtain ⟨hblock, hwire, -⟩ := hspec
      exact .inl ⟨rfl, rfl, hwire, rfl, hblock.asicId, hblock.spiFormat, hblock.trace⟩
    | fail t =>
      rw [ht] at hspec
      obtain ⟨hblock, ⟨k, hwire⟩, -⟩ := hspec
      exact .inr (.inr (.inl ⟨rfl, rfl, ⟨hblock.seq, hblock.asicId, hblock.spiFormat, hblock.trace⟩,
        min k ((encode s.implicit i).length - 1), by omega, hwire⟩))
    | blocked t =>
      rw [ht] at hspec
      obtain ⟨hblock, hwire, -⟩ := hspec
      exact .inr (.inr (.inr ⟨hblock.results, rfl, ⟨hblock.seq, hblock.asicId, hblock.spiFormat, hblock.trace⟩,
        hwire⟩))

/-- How a send ends touches neither the receive stream nor the moves to come. -/
theorem receivedOnly_endSend (i : Instr) (p : List Byte) (s : State) : ReceivedOnly s (endSend i (txSendAll p s)) := by
  have hmoves := txSendAll_moves p s
  split at hmoves <;> rename_i t ht <;> rw [ht] <;> exact hmoves

/-- Settles O25: a refusal takes no move, and a send takes its moves from the front of the list. -/
theorem commandTakesNothingFromRx : Obligations.CommandTakesNothingFromRx := by
  intro i s t hi h
  rcases exec_command_cases hi h with rfl | ⟨-, rfl⟩
  · exact ⟨[], rfl, by simp [deliveredBytes]⟩
  · exact receivedOnly_endSend i _ s

/-! ### The obligation about the configuration bytes (R171) -/

/-- A width check and then SEND_COMMAND of a payload made of operands alone do the same under other configuration
registers and hand them on. -/
theorem checkedSend_mapConfig (fa ff : Byte → Byte) (ft : Bool → Bool) (fit : Bool) (i : Instr) (opcode : Byte)
    (payload : List Byte) (s : State) :
    (if fit then .next (sendCommand i opcode payload (mapConfig fa ff ft s))
      else .next (raise .encoding (mapConfig fa ff ft s))) =
      mapNext (mapConfig fa ff ft)
        (if fit then .next (sendCommand i opcode payload s) else .next (raise .encoding s)) := by
  rw [sendCommand_mapConfig]
  cases fit <;> rfl

/-- Settles O49: the payload of either command is made of its operands alone. -/
theorem sysRegCommandsReadNoConfiguration : Obligations.SysRegCommandsReadNoConfiguration := by
  intro i s t a f hi h
  have hexec : exec i (mapConfig (fun _ => a) (fun _ => f) id s)
      = mapNext (mapConfig (fun _ => a) (fun _ => f) id) (exec i s) := by
    rcases hi with ⟨address, n, value, rfl⟩ | ⟨address, rfl⟩
    · exact checkedSend_mapConfig _ _ _ _ _ _ _ s
    · exact checkedSend_mapConfig _ _ _ _ _ _ _ s
  rw [h] at hexec
  exact hexec

end Machine

end Sys2Proof
end

section
/-! Safe states (60_exceptions.md R221, R230, R238; 20_memory.md R67): what a host operation can end with and what it
can be left waiting in, the invariant along a step and along a run, and the obligation about FramingError. -/

namespace Sys2Proof.Machine

/-! ### The ends of a host operation -/

/-- From s to t the operation i returned one result other than FramingError, or it goes on waiting and is one of those
that can block (R168, R238). -/
def EndsOrWaits (i : Instr) (s t : State) : Prop :=
  (t.busy = none ∧ ∃ r, r ≠ .error .framing ∧ t.results = s.results ++ [r]) ∨
    (t.busy = some i ∧ canBlock i = true ∧ t.results = s.results)

theorem endsOrWaits_finish (i : Instr) (v : Value) {s t : State} (h : t.results = s.results) :
    EndsOrWaits i s (finish v t) :=
  .inl ⟨rfl, .ok v, nofun, by simp [h]⟩

theorem endsOrWaits_raise (i : Instr) {e : ErrorKind} (he : e ≠ .framing) {s t : State} (h : t.results = s.results) :
    EndsOrWaits i s (raise e t) :=
  .inl ⟨rfl, .error e, by simpa using he, by simp [h]⟩

theorem endsOrWaits_hold {i : Instr} (hi : canBlock i = true) {s t : State} (h : t.results = s.results) :
    EndsOrWaits i s (hold i t) :=
  .inr ⟨rfl, hi, h⟩

theorem endsOrWaits_endSend {i : Instr} (hi : canBlock i = true) (p : List Byte) (s : State) :
    EndsOrWaits i s (endSend i (txSendAll p s)) := by
  have hspec := txSendAll_spec p s
  split at hspec <;> rename_i t ht <;> rw [ht] <;> obtain ⟨hblock, -⟩ := hspec
  · exact endsOrWaits_finish i _ (by simpa using hblock.results)
  · exact endsOrWaits_raise i (by decide) hblock.results
  · exact endsOrWaits_hold hi hblock.results

theorem endsOrWaits_endReceive {n : Nat} (hn : canBlock (.readBack n) = true) (s : State) :
    EndsOrWaits (.readBack n) s (endReceive n (rxRecvExact n s)) := by
  have hspec := rxWait_spec n s.env s
  rw [rxRecvExact]
  split at hspec <;> rename_i t ht <;> rw [ht] <;> obtain ⟨hblock, -⟩ := hspec
  · exact endsOrWaits_finish _ _ hblock.results
  · exact endsOrWaits_raise _ (by decide) hblock.results
  · exact endsOrWaits_hold hn hblock.results

/-- A command that has passed its checks is one of the operations that can block (R238). -/
theorem canBlock_of_wellFormed {i : Instr} (hi : i.emitsPacket = true) (hw : i.wellFormed = true) :
    canBlock i = true := by
  have hnot : ∀ packetType dataLength, i ≠ .encodeHeader packetType dataLength := by
    rintro packetType dataLength rfl
    cases hi
  have hfit : operandsFit i = true := (operandsFit_eq_wellFormed i hnot).trans hw
  cases i with
  | writeSysReg address n value => exact hfit
  | readSysReg address => exact hfit
  | writeAsicSpiRegister regAddr bitLength value => exact hfit
  | readAsicSpiExRegister regAddr bitLength => exact hfit
  | _ => cases hi

/-- No command reaches FramingError (R168), and it waits only after its checks. -/
theorem exec_command_endsOrWaits {i : Instr} {s t : State} (hi : i.emitsPacket = true) (h : exec i s = .next t) :
    EndsOrWaits i s t := by
  rcases exec_command_cases hi h with rfl | ⟨hw, rfl⟩
  · exact endsOrWaits_raise i (by decide) rfl
  · exact endsOrWaits_endSend (canBlock_of_wellFormed hi hw) _ s

/-- No host operation reaches FramingError: of the operations only ENCODE_HEADER can be handed operands that no header
holds (R125). -/
theorem exec_endsOrWaits {i : Instr} {s t : State} (hi : i.isInternal = false) (h : exec i s = .next t) :
    EndsOrWaits i s t := by
  cases i with
  | writeSysReg address n value => exact exec_command_endsOrWaits rfl h
  | readSysReg address => exact exec_command_endsOrWaits rfl h
  | writeAsicSpiRegister regAddr bitLength value => exact exec_command_endsOrWaits rfl h
  | readAsicSpiExRegister regAddr bitLength => exact exec_command_endsOrWaits rfl h
  | readBack n =>
    simp only [exec, execReadBack] at h
    split at h <;> injection h with h <;> subst h
    · exact endsOrWaits_finish _ _ rfl
    · rename_i hn
      exact endsOrWaits_endReceive (decide_eq_true (Nat.one_le_iff_ne_zero.2 hn)) s
  | setSpiFormat v =>
    simp only [exec, execSetSpiFormat] at h
    split at h <;> injection h with h <;> subst h
    · exact endsOrWaits_finish _ _ rfl
    · exact endsOrWaits_raise _ (by decide) rfl
  | setAsicId v =>
    simp only [exec, execSetAsicId] at h
    split at h <;> injection h with h <;> subst h
    · exact endsOrWaits_finish _ _ rfl
    · exact endsOrWaits_raise _ (by decide) rfl
  | setTrace b =>
    cases h
    exact endsOrWaits_finish _ _ rfl
  | getCount =>
    cases h
    exact endsOrWaits_finish _ _ rfl
  | encodeHeader packetType dataLength => cases hi
  | current => cases hi
  | incrementAfterSend => cases hi

/-! ### The invariant along a step -/

/-- A closed link keeps its marker, and an open one is without it (R67(a)). -/
theorem LinkMoved.linkMarkerAgree {s t : State} (h : LinkMoved s t) (hs : LinkMarkerAgree s) : LinkMarkerAgree t := by
  rcases h with ⟨hlink, hmark⟩ | ⟨hlink, hmark⟩
  · rw [LinkMarkerAgree, hlink, hmark]
    exact hs
  · simp [LinkMarkerAgree, hlink, hmark]

/-- The requests behind the first are the host's too. -/
theorem SafeState.of_setPort {r : Request} {rest : List Request} {s : State} (hs : SafeState s)
    (hp : s.port = r :: rest) : SafeState (setPort rest s) := by
  obtain ⟨hno, hagree, ⟨hfrom, hhost⟩, hblocks⟩ := hs
  rw [hp] at hfrom
  exact ⟨hno, hagree, ⟨(List.forall_mem_cons.1 hfrom).2, hhost⟩, hblocks⟩

/-- The invariant speaks of no register and of no byte of a stream. -/
theorem SafeState.of_same {s t : State} (hs : SafeState s) (hresults : t.results = s.results) (hlink : LinkMoved s t)
    (hport : t.port = s.port) (hbusy : t.busy = s.busy) : SafeState t := by
  obtain ⟨hno, hagree, ⟨hfrom, hhost⟩, hblocks⟩ := hs
  refine ⟨?_, hlink.linkMarkerAgree hagree, ⟨?_, ?_⟩, ?_⟩
  · rwa [NoFramingError, hresults]
  · rwa [hport]
  · rwa [hbusy]
  · rwa [OnlyBlockingBusy, hbusy]

/-- One result more, and not FramingError, leaves a safe state with the block idle. -/
theorem SafeState.of_result {r : Result} {s t : State} (hs : SafeState s) (hr : r ≠ .error .framing)
    (hresults : t.results = s.results ++ [r]) (hlink : LinkMoved s t) (hport : t.port = s.port)
    (hbusy : t.busy = none) : SafeState t := by
  obtain ⟨hno, hagree, ⟨hfrom, -⟩, -⟩ := hs
  have hidle : ∀ i, t.busy ≠ some i := by simp [hbusy]
  refine ⟨?_, hlink.linkMarkerAgree hagree, ⟨?_, fun i hi => absurd hi (hidle i)⟩, fun i hi => absurd hi (hidle i)⟩
  · rw [NoFramingError, hresults, List.mem_append, List.mem_singleton]
    exact fun hmem => hmem.elim hno fun heq => hr heq.symm
  · rwa [hport]

/-- An operation of the host's goes on waiting in a safe state, if it is one that can block. -/
theorem SafeState.of_wait {i : Instr} {s t : State} (hs : SafeState s) (hi : i.isInternal = false)
    (hblock : canBlock i = true) (hresults : t.results = s.results) (hlink : LinkMoved s t) (hport : t.port = s.port)
    (hbusy : t.busy = some i) : SafeState t := by
  obtain ⟨hno, hagree, ⟨hfrom, -⟩, -⟩ := hs
  have hwaits : ∀ j, t.busy = some j → i = j := fun j hj => Option.some.inj (hbusy.symm.trans hj)
  refine ⟨?_, hlink.linkMarkerAgree hagree, ⟨?_, fun j hj => hwaits j hj ▸ hi⟩, fun j hj => hwaits j hj ▸ hblock⟩
  · rwa [NoFramingError, hresults]
  · rwa [hport]

/-- Every host operation, from its two possible ends. -/
theorem SafeState.of_exec {i : Instr} {s t : State} (hs : SafeState s) (hi : i.isInternal = false)
    (h : exec i s = .next t) : SafeState t := by
  have hframe := exec_frame h
  rcases exec_endsOrWaits hi h with ⟨hbusy, r, hr, hresults⟩ | ⟨hbusy, hblock, hresults⟩
  · exact hs.of_result hr hresults hframe.link hframe.port hbusy
  · exact hs.of_wait hi hblock hresults hframe.link hframe.port hbusy

/-- A request of the host's: its operation, the refusal of an unassigned pattern (R92), or reset. -/
theorem SafeState.of_runRequest {r : Request} {s t : State} (hs : SafeState s) (hr : r.fromHost = true)
    (h : runRequest r s = .next t) : SafeState t := by
  rcases runRequest_cases h with ⟨i, hissues, hi⟩ | ⟨-, -, -, -, rfl⟩ | ⟨-, rfl⟩
  · exact hs.of_exec (hissues.not_internal hr) hi
  · exact hs.of_result (r := .error .encoding) (by decide) rfl (.refl s) rfl rfl
  · exact hs.of_same rfl (.refl s) rfl rfl

/-- The three things a step can be: the operation in progress, a request of the host's, the environment's move. -/
theorem SafeState.of_step {s t : State} (hs : SafeState s) (h : step s = .next t) : SafeState t := by
  have ⟨_, _, ⟨hfrom, hhost⟩, _⟩ := hs
  rcases step_cases h with ⟨i, hb, hi⟩ | ⟨r, rest, -, hp, hr⟩ | ⟨-, -, rfl⟩
  · exact hs.of_exec (hhost i hb) hi
  · exact (hs.of_setPort hp).of_runRequest (hfrom r (by simp [hp])) hr
  · obtain ⟨hblock, -, hlink⟩ := idleMove_frame s
    exact hs.of_same hblock.results hlink hblock.port hblock.busy

/-! ### The invariant along a run -/

theorem SafeState.of_run {n : Nat} {s t : State} (hs : SafeState s) (h : Host.Core.run core n s = .next t) :
    SafeState t := by
  induction n generalizing s with
  | zero =>
    injection h with h
    exact h ▸ hs
  | succ n ih =>
    obtain ⟨u, hstep, hrun⟩ := exists_step_of_run_succ h
    exact ih (hs.of_step hstep) hrun

/-- Settles O42: every state a run answers is safe, and a safe state holds no FramingError. -/
theorem hostRunsNeverSeeFramingError : Obligations.HostRunsNeverSeeFramingError := by
  intro s hs n t hrun
  obtain ⟨hno, -⟩ := hs.of_run hrun
  exact hno

end Sys2Proof.Machine
end

section
/-! The session operations (43_session_ops.md R200 to R210): READ_BACK as one equation and from it the ends it can come
to and the moves it waits through, the setters' refusals, and the obligations about them. -/

namespace Sys2Proof.Machine

/-! ### READ_BACK (R200 to R204) -/

section
variable {n : Nat} {s : State} {es : List EnvMove}

/-- READ_BACK is the receive of R52 and its end, that of zero bytes too: they are there without a wait (R203). -/
theorem exec_readBack (n : Nat) (s : State) : exec (.readBack n) s = .next (endReceive n (rxWait n s.env s)) := by
  cases n with
  | zero =>
    rw [rxWait_enough s.env (Nat.zero_le _)]
    rfl
  | succ n => rw [exec, execReadBack, if_neg n.succ_ne_zero, rxRecvExact]

/-- Enough bytes are there (R200). -/
theorem exec_readBack_enough (h : n ≤ s.rx.length) :
    exec (.readBack n) s = .next (finish (.bytes (s.rx.take n)) (setRx (s.rx.drop n) s)) := by
  rw [exec_readBack, rxWait_enough _ h, endReceive]

/-- Too few bytes stand before the `close` marker (R202). -/
theorem exec_readBack_closed (h : s.rx.length < n) (hmark : s.rxClose = true) :
    exec (.readBack n) s = .next (raise .transport (setRx [] s)) := by
  rw [exec_readBack, rxWait_closed _ h hmark, endReceive]

/-- Bytes that arrive while there are too few: READ_BACK goes on as if they had been there from the start (R201). -/
theorem exec_readBack_deliver {bs : List Byte} (h : s.rx.length < n) (hopen : s.rxClose = false)
    (henv : s.env = .deliver bs :: es) :
    exec (.readBack n) s = exec (.readBack n) (setRx (s.rx ++ bs) (setEnv es s)) := by
  have hdeliver : deliver bs (setEnv es s) = setRx (s.rx ++ bs) (setEnv es s) := deliver_of_open bs hopen
  simp only [exec_readBack, henv, rxWait, Nat.not_le.2 h, hopen, if_false, Bool.false_eq_true, hdeliver, setRx_env,
    setEnv_env]

/-- The link closes while there are too few bytes (R202, 20_memory.md R67). -/
theorem exec_readBack_close (h : s.rx.length < n) (hopen : s.rxClose = false) (henv : s.env = .close :: es) :
    exec (.readBack n) s = .next (raise .transport (setRx [] (closeLink (setEnv es s)))) := by
  have hclosed : rxWait n es (closeLink (setEnv es s)) = .closed (setRx [] (closeLink (setEnv es s))) :=
    rxWait_closed es h rfl
  simp only [exec_readBack, henv, rxWait, Nat.not_le.2 h, hopen, if_false, Bool.false_eq_true, hclosed, endReceive]

/-- READ_BACK waits through fragments that with what is in `rx` are too few, and then has them all in `rx` (R201). -/
theorem exec_readBack_short_fragments {fragments : List (List Byte)} (hopen : s.rxClose = false)
    (henv : s.env = fragments.map EnvMove.deliver ++ es) (hshort : (s.rx ++ fragments.flatten).length < n) :
    exec (.readBack n) s = exec (.readBack n) (setRx (s.rx ++ fragments.flatten) (setEnv es s)) := by
  induction fragments generalizing s with
  | nil =>
    obtain rfl : s.env = es := henv
    rw [List.flatten_nil, List.append_nil]
    rfl
  | cons bs fragments ih =>
    rw [List.flatten_cons, ← List.append_assoc] at hshort ⊢
    have hrx : s.rx.length < n := by
      simp only [List.length_append] at hshort
      omega
    exact (exec_readBack_deliver hrx hopen henv).trans (ih hopen rfl hshort)

/-- READ_BACK of n ends with OK and the first n bytes of the stream that is in `rx` and in the fragments to come, and
leaves the others in the stream: some in `rx`, some in fragments that still come, before the moves es (R201). -/
def TakesFromStream (n : Nat) (fragments : List (List Byte)) (es : List EnvMove) (s : State) : Prop :=
  ∃ (rest : List Byte) (left : List (List Byte)),
    exec (.readBack n) s = .next (finish (.bytes ((s.rx ++ fragments.flatten).take n))
      (setRx rest (setEnv (left.map EnvMove.deliver ++ es) s))) ∧
    rest ++ left.flatten = (s.rx ++ fragments.flatten).drop n

/-- Where `rx` alone has the n bytes, every fragment is left. -/
theorem takesFromStream_of_enough {fragments : List (List Byte)} (henv : s.env = fragments.map EnvMove.deliver ++ es)
    (h : n ≤ s.rx.length) : TakesFromStream n fragments es s := by
  refine ⟨s.rx.drop n, fragments, ?_, (List.drop_append_of_le_length h).symm⟩
  rw [exec_readBack_enough h, List.take_append_of_le_length h, ← henv]
  rfl

/-- Fragment by fragment: `rx` has enough bytes already, or READ_BACK goes on with the first fragment in `rx`. -/
theorem takesFromStream_of_fragments {fragments : List (List Byte)} (hopen : s.rxClose = false)
    (henv : s.env = fragments.map EnvMove.deliver ++ es) (h : n ≤ (s.rx ++ fragments.flatten).length) :
    TakesFromStream n fragments es s := by
  induction fragments generalizing s with
  | nil => exact takesFromStream_of_enough henv (by simpa using h)
  | cons bs fragments ih =>
    rcases Nat.lt_or_ge s.rx.length n with hshort | henough
    · rw [List.flatten_cons, ← List.append_assoc] at h
      have hnext := exec_readBack_deliver hshort hopen henv
      obtain ⟨rest, left, hexec, hrest⟩ :=
        ih (s := setRx (s.rx ++ bs) (setEnv (fragments.map EnvMove.deliver ++ es) s)) hopen rfl h
      rw [TakesFromStream, List.flatten_cons, ← List.append_assoc]
      exact ⟨rest, left, hnext.trans hexec, hrest⟩
    · exact takesFromStream_of_enough henv henough

end

/-! ### The obligations about READ_BACK -/

/-- Settles O27: `exec_readBack_enough`, with the state it ends in written out. -/
theorem readBackTakesTheFirstBytes : Obligations.ReadBackTakesTheFirstBytes := fun _ _ h => exec_readBack_enough h

/-- Settles O28: zero bytes are always there. -/
theorem readBackOfZeroReturnsAtOnce : Obligations.ReadBackOfZeroReturnsAtOnce := fun s =>
  exec_readBack_enough (Nat.zero_le s.rx.length)

/-- Settles O29: the failure leaves `rx` empty under its marker, so one byte is too many for every later READ_BACK. -/
theorem readBackAfterAnEarlyClose : Obligations.ReadBackAfterAnEarlyClose := by
  intro s n hmark
  exact ⟨fun hshort => ⟨_, rfl, exec_readBack_closed hshort hmark, fun _ hm => exec_readBack_closed hm hmark⟩,
    exec_readBack_enough⟩

/-- Settles O30: `TakesFromStream` names what READ_BACK writes, so nothing else has changed. -/
theorem fragmentsAreAccumulated : Obligations.FragmentsAreAccumulated := by
  intro s n fragments es hopen henv h
  obtain ⟨rest, left, hexec, hrest⟩ := takesFromStream_of_fragments hopen henv h
  exact ⟨_, left, hexec, rfl, rfl, rfl, hrest, ⟨rfl, rfl, rfl, rfl⟩, rfl, rfl, rfl⟩

/-- Settles O31: READ_BACK waits through the fragments and then meets the close with too few bytes. -/
theorem closeWhileReadingConsumesTheBytes : Obligations.CloseWhileReadingConsumesTheBytes := by
  intro s n fragments es hopen henv hshort
  rw [exec_readBack_short_fragments hopen henv hshort]
  exact exec_readBack_close hshort hopen rfl

/-! ### The setters (R206 to R209) -/

/-- A byte that does not fit is refused and not cut (R207). -/
theorem exec_setAsicId_of_le {v : Nat} (hv : 256 ≤ v) (s : State) :
    exec (.setAsicId v) s = .next (raise .encoding s) :=
  if_neg (by simpa [operandsFit] using hv)

/-- As for SET_ASIC_ID (R206). -/
theorem exec_setSpiFormat_of_le {v : Nat} (hv : 256 ≤ v) (s : State) :
    exec (.setSpiFormat v) s = .next (raise .encoding s) :=
  if_neg (by simpa [operandsFit] using hv)

/-- Settles O32: the width check decides between the write and the refusal. -/
theorem setSpiFormatWritesItsByte : Obligations.SetSpiFormatWritesItsByte := fun s _ =>
  ⟨fun hv => exec_setSpiFormat hv s, fun hv => exec_setSpiFormat_of_le hv s⟩

/-- Settles O33, as O32. -/
theorem setAsicIdWritesItsByte : Obligations.SetAsicIdWritesItsByte := fun s _ =>
  ⟨fun hv => exec_setAsicId hv s, fun hv => exec_setAsicId_of_le hv s⟩

/-- Settles O34: SET_TRACE checks nothing, and its meaning is the one write and the end with OK. -/
theorem setTraceWritesTheFlag : Obligations.SetTraceWritesTheFlag := fun _ _ => rfl

end Sys2Proof.Machine
end

section
/-! Errors, waits and the timeout hook (60_exceptions.md R220 to R239): what a blocked send and a blocked receive come
to when the environment says nothing or cancels, what an operation that does not end with OK leaves alone, and the
obligations about errors. -/

namespace Sys2Proof.Machine

/-! ### The blocked transfer (R238, R239) -/

section
variable {s : State} {es : List EnvMove} {k : Nat}

theorem txSendAll_nil (p : List Byte) (hl : s.link = .opened) (he : s.env = []) : txSendAll p s = .blocked s := by
  rw [txSendAll_opened p hl, he, txWait]

/-- The hook ends a blocked send as a failed one (log 9). -/
theorem txSendAll_cancel_present (p : List Byte) (hl : s.link = .opened) (he : s.env = .cancel k :: es)
    (hhook : s.params.timeoutHook = .present) :
    txSendAll p s = .fail (accepted (strictPrefix k p) (setEnv es s)) := by
  simp only [txSendAll_opened p hl, he, txWait, hhook]

/-- Without the hook the move is passed over. -/
theorem txSendAll_cancel_absent (p : List Byte) (hl : s.link = .opened) (he : s.env = .cancel k :: es)
    (hhook : s.params.timeoutHook = .absent) : txSendAll p s = txSendAll p (setEnv es s) := by
  have hskipped : txSendAll p (setEnv es s) = txWait p es (setEnv es s) := txSendAll_opened p hl
  simp only [hskipped, txSendAll_opened p hl, he, txWait, hhook]

section
variable {n : Nat} (h : s.rx.length < n) (hopen : s.rxClose = false)
include h hopen

theorem rxWait_nil (he : s.env = []) : rxWait n s.env s = .blocked s := by
  simp [he, rxWait, Nat.not_le.2 h, hopen]

/-- The hook ends a blocked receive as a close would, but leaves the link alone (log 9). -/
theorem rxWait_cancel_present (he : s.env = .cancel k :: es) (hhook : s.params.timeoutHook = .present) :
    rxWait n s.env s = .closed (setRx [] (setEnv es s)) := by
  simp [he, rxWait, Nat.not_le.2 h, hopen, hhook]

theorem rxWait_cancel_absent (he : s.env = .cancel k :: es) (hhook : s.params.timeoutHook = .absent) :
    rxWait n s.env s = rxWait n es (setEnv es s) := by
  simp [he, rxWait, Nat.not_le.2 h, hopen, hhook]

end

section
variable {i : Instr} (hi : i.emitsPacket = true) (hw : i.wellFormed = true)
  (hp : refusedUnder s.params.bitLengthPolicy i = false) (hl : s.link = .opened) (he : s.env = .cancel k :: es)
include hi hw hp hl he

/-- With the hook, a cancellation ends a command as a failed send does (R223). -/
theorem exec_command_cancel_present (hhook : s.params.timeoutHook = .present)
    (hk : k < (encode s.implicit i).length) :
    exec i s = .next (afterFailedSend ((encode s.implicit i).take k) es s) := by
  rw [exec_command_of_wellFormed hi hw hp, txSendAll_cancel_present _ hl he hhook, strictPrefix_eq hk]
  rfl

/-- Without the hook, a command does what it would do if the cancellation were not there. -/
theorem exec_command_cancel_absent (hhook : s.params.timeoutHook = .absent) : exec i s = exec i (setEnv es s) := by
  have hwithout := exec_command_of_wellFormed (s := setEnv es s) hi hw hp
  rw [exec_command_of_wellFormed hi hw hp, txSendAll_cancel_absent _ hl he hhook, hwithout]
  rfl

end

end

/-! ### What an operation that does not end with OK leaves alone (R226) -/

theorem SameBlock.sameRegisters {s t : State} (h : SameBlock s t) : SameRegisters s t :=
  ⟨h.seq, h.asicId, h.spiFormat, h.trace⟩

theorem sameRegisters_raise (e : ErrorKind) (s : State) : SameRegisters s (raise e s) := ⟨rfl, rfl, rfl, rfl⟩

/-- Only the advance of SEQ behind the transport's ok writes a register at the end of a send (R142, R169). -/
theorem endSend_sameRegisters_or_ok (i : Instr) (p : List Byte) (s : State) :
    SameRegisters s (endSend i (txSendAll p s)) ∨
      ∃ v, (endSend i (txSendAll p s)).results = s.results ++ [.ok v] := by
  have hspec := txSendAll_spec p s
  split at hspec <;> rename_i t ht <;> rw [ht] <;> obtain ⟨hblock, -⟩ := hspec
  · exact .inr ⟨.nothing, by simp [endSend, hblock.results]⟩
  · exact .inl hblock.sameRegisters
  · exact .inl hblock.sameRegisters

/-- A receive writes no register, whatever it comes to (R204). -/
theorem endReceive_sameRegisters (n : Nat) (s : State) : SameRegisters s (endReceive n (rxWait n s.env s)) := by
  have hspec := rxWait_spec n s.env s
  split at hspec <;> rename_i t ht <;> rw [ht] <;> obtain ⟨hblock, -⟩ := hspec <;> exact hblock.sameRegisters

theorem exec_command_sameRegisters_or_ok {i : Instr} {s t : State} (hi : i.emitsPacket = true)
    (h : exec i s = .next t) : SameRegisters s t ∨ ∃ v, t.results = s.results ++ [.ok v] := by
  rcases exec_command_cases hi h with rfl | ⟨-, rfl⟩
  · exact .inl (sameRegisters_raise .encoding s)
  · exact endSend_sameRegisters_or_ok i _ s

/-- A register is written by an operation that ends with OK, and by no other. -/
theorem exec_sameRegisters_or_ok {i : Instr} {s t : State} (h : exec i s = .next t) :
    SameRegisters s t ∨ ∃ v, t.results = s.results ++ [.ok v] := by
  cases i with
  | writeSysReg address n value => exact exec_command_sameRegisters_or_ok rfl h
  | readSysReg address => exact exec_command_sameRegisters_or_ok rfl h
  | writeAsicSpiRegister regAddr bitLength value => exact exec_command_sameRegisters_or_ok rfl h
  | readAsicSpiExRegister regAddr bitLength => exact exec_command_sameRegisters_or_ok rfl h
  | readBack n =>
    rw [exec_readBack] at h
    cases h
    exact .inl (endReceive_sameRegisters n s)
  | setSpiFormat v =>
    rcases Nat.lt_or_ge v 256 with hv | hv
    · cases (exec_setSpiFormat hv s).symm.trans h
      exact .inr ⟨_, rfl⟩
    · cases (exec_setSpiFormat_of_le hv s).symm.trans h
      exact .inl (sameRegisters_raise .encoding s)
  | setAsicId v =>
    rcases Nat.lt_or_ge v 256 with hv | hv
    · cases (exec_setAsicId hv s).symm.trans h
      exact .inr ⟨_, rfl⟩
    · cases (exec_setAsicId_of_le hv s).symm.trans h
      exact .inl (sameRegisters_raise .encoding s)
  | encodeHeader t d =>
    rw [exec_encodeHeader_eq] at h
    split at h <;> cases h
    · exact .inr ⟨_, rfl⟩
    · exact .inl (sameRegisters_raise .framing s)
  | setTrace b =>
    cases h
    exact .inr ⟨_, rfl⟩
  | getCount =>
    cases h
    exact .inr ⟨_, rfl⟩
  | current =>
    cases h
    exact .inr ⟨_, rfl⟩
  | incrementAfterSend =>
    cases h
    exact .inr ⟨_, rfl⟩

/-! ### The obligations about errors and waits -/

/-- Settles O40: the step lemma behind O42. -/
theorem everyStepKeepsSafeState : Obligations.EveryStepKeepsSafeState := fun _ _ hs h => hs.of_step h

/-- Settles O19: each transfer meets the cancellation at once, and the hook decides whether it ends there. -/
theorem timeoutHookEndsABlockedTransfer : Obligations.TimeoutHookEndsABlockedTransfer := by
  refine ⟨fun i s k es hi hw hp hl he => ?_, fun n s k es hshort hopen he => ⟨fun hhook => ?_, fun hhook => ?_⟩⟩
  · have hp := refusedUnder_eq_false hp
    exact ⟨exec_command_cancel_present hi hw hp hl he, exec_command_cancel_absent hi hw hp hl he⟩
  · rw [exec_readBack, rxWait_cancel_present hshort hopen he hhook]
    rfl
  · rw [exec_readBack, exec_readBack, rxWait_cancel_absent hshort hopen he hhook]
    rfl

/-- Settles O20: with no move to come both transfers are blocked, and an operation in progress takes no request. -/
theorem blockedOperationStaysInProgress : Obligations.BlockedOperationStaysInProgress := by
  refine ⟨fun i s hi hw hp hl he => ?_, fun n s hshort hopen he => ?_, fun s t i hb h => ?_⟩
  · rw [exec_command_of_wellFormed hi hw (refusedUnder_eq_false hp), txSendAll_nil _ hl he]
    rfl
  · rw [exec_readBack, rxWait_nil hshort hopen he]
    rfl
  · rw [step_busy hb] at h
    exact (exec_frame h).port

/-- Settles O45: an error is one result and no OK, so the operation has ended and has written no register. -/
theorem errorsLeaveTheRegistersAlone : Obligations.ErrorsLeaveTheRegistersAlone := by
  intro i s t e h he
  obtain ⟨hport, hparams, -, -, hended⟩ := exec_frame h
  have hregisters : SameRegisters s t := by
    rcases exec_sameRegisters_or_ok h with hsame | ⟨v, hok⟩
    · exact hsame
    · simp [he] at hok
  have hbusy : t.busy = none := by
    rcases hended with ⟨hidle, -⟩ | ⟨-, hnone, -⟩
    · exact hidle
    · simp [he] at hnone
  exact ⟨hregisters, hbusy, hport, hparams⟩

/-- Settles O23, at each of the four statuses. -/
theorem statusCodesAreTheSpecs : Obligations.StatusCodesAreTheSpecs := ⟨fun _ => rfl, rfl, rfl, rfl⟩

end Sys2Proof.Machine
end

section
/-! The byte-serial realisation (70_reset_and_hazards.md R267, R268; log 16): what one step of its control state machine
can do, said once; what the block keeps while it serves one command; and the obligations about its invariant and about
the operation it realises. -/

namespace Sys2Proof.Machine

/-! ### The packet of a command that passed the checks -/

/-- No packet-emitting command is ENCODE_HEADER, so the machine's checks say that its operands are well-formed (R166). -/
theorem operandsFit_command {i : Instr} (hi : i.emitsPacket = true) : operandsFit i = i.wellFormed :=
  operandsFit_eq_wellFormed i (by rintro packetType dataLength rfl; cases hi)

theorem serialPacket_eq_encode {b : SerialBlock} {i : Instr} (hop : b.op = some i) :
    serialPacket b = encode ⟨b.sampled, b.asicId, b.spiFormat⟩ i := by
  rw [serialPacket, hop]

/-- At least one payload byte follows the ten header bytes (R57). -/
theorem ten_lt_serialPacket_length {b : SerialBlock} {i : Instr} (hop : b.op = some i) (hi : i.emitsPacket = true)
    (hfit : operandsFit i = true) : 10 < (serialPacket b).length := by
  have hw : i.wellFormed = true := (operandsFit_command hi).symm.trans hfit
  have hmin := (encodedLength_bounds hi hw).1
  rw [serialPacket_eq_encode hop, encode_length _ hw]
  omega

/-- Handing over the next byte of the packet extends the bytes handed over by one. -/
theorem take_append_serialByte {b : SerialBlock} {n : Nat} (hn : n < (serialPacket b).length) :
    (serialPacket b).take n ++ [serialByte b n] = (serialPacket b).take (n + 1) := by
  rw [serialByte, List.getD_eq_getElem _ _ hn, List.take_append_getElem]

/-! ### What the start strobe does -/

/-- A packet-emitting command goes to CHECK with its operands latched, and nothing else changes. -/
theorem serialStart_command {i : Instr} (hi : i.emitsPacket = true) (b : SerialBlock) :
    serialStart i b = { b with op := some i, phase := .check } := by
  cases i with
  | writeSysReg address n value => rfl
  | readSysReg address => rfl
  | writeAsicSpiRegister regAddr bitLength value => rfl
  | readAsicSpiExRegister regAddr bitLength => rfl
  | _ => cases hi

theorem serialStart_seq (i : Instr) (b : SerialBlock) : (serialStart i b).seq = b.seq := by
  cases i with
  | setSpiFormat v => rw [serialStart]; split <;> rfl
  | setAsicId v => rw [serialStart]; split <;> rfl
  | _ => rfl

/-- No operation goes to COMMIT at its start. -/
theorem serialStart_phase_ne_commit {b : SerialBlock} (hb : b.phase ≠ .commit) (i : Instr) :
    (serialStart i b).phase ≠ .commit := by
  cases i with
  | setSpiFormat v => rw [serialStart]; split <;> exact SerialPhase.noConfusion
  | setAsicId v => rw [serialStart]; split <;> exact SerialPhase.noConfusion
  | encodeHeader packetType dataLength => exact hb
  | current => exact hb
  | incrementAfterSend => exact hb
  | _ => exact SerialPhase.noConfusion

/-! ### What a step can do -/

/-- The control states in which the transport may fail the send. -/
def SerialPhase.sending : SerialPhase → Bool
  | .hdr _ => true
  | .pay _ => true
  | .wait => true
  | _ => false

/-- The moves of the control state machine of R267 under the inputs `x`, from the block `b` to the block after it. -/
inductive SerialTransition (x : SerialIn) (b : SerialBlock) : SerialBlock → Prop where
  /-- No input it waits for has come; COMMIT waits for none. -/
  | waits (hphase : b.phase ≠ .commit) : SerialTransition x b b
  | starts (op : HostOp) (operands : PortOperands) (hphase : b.phase = .idle) (hstart : x.start = some (op, operands)) :
    SerialTransition x b (serialStart (portInstr op operands) b)
  | checks (i : Instr) (hphase : b.phase = .check) (hop : b.op = some i) (hfit : operandsFit i = true) :
    SerialTransition x b { b with sampled := b.seq, phase := .hdr 0 }
  | refuses (i : Instr) (hphase : b.phase = .check) (hop : b.op = some i) (hfit : operandsFit i = false) :
    SerialTransition x b (serialEnd (.error .encoding) b)
  | sendFails (hphase : b.phase.sending = true) (hfail : x.txFail = true) :
    SerialTransition x b (serialEnd (.error .transport) b)
  | handsHeader (k : Nat) (hphase : b.phase = .hdr k) (hready : x.txReady = true) (hnext : k + 1 < 10) :
    SerialTransition x b (serialHand k (.hdr (k + 1)) b)
  | handsLastOfHeader (k : Nat) (hphase : b.phase = .hdr k) (hready : x.txReady = true) (hlast : ¬ k + 1 < 10) :
    SerialTransition x b (serialHand k (.pay 0) b)
  | handsPayload (k : Nat) (hphase : b.phase = .pay k) (hready : x.txReady = true)
    (hnext : k + 1 < serialPayloadLength b) :
    SerialTransition x b (serialHand (10 + k) (.pay (k + 1)) b)
  | handsLastOfPayload (k : Nat) (hphase : b.phase = .pay k) (hready : x.txReady = true)
    (hlast : ¬ k + 1 < serialPayloadLength b) :
    SerialTransition x b (serialHand (10 + k) .wait b)
  | confirms (hphase : b.phase = .wait) (hok : x.txOk = true) (hfail : x.txFail = false) :
    SerialTransition x b { b with phase := .commit }
  | commits (hphase : b.phase = .commit) :
    SerialTransition x b (serialEnd (.ok .nothing) { b with seq := b.seq + 1#14 })
  | returnsBytes (hphase : b.phase = .recv 0) : SerialTransition x b (serialEnd (.ok (.bytes b.taken)) b)
  | receives (owed : Nat) (v : Byte) (hphase : b.phase = .recv (owed + 1)) (hdata : x.rxData = some v) :
    SerialTransition x b { b with taken := b.taken ++ [v], phase := .recv owed }
  | receiveFails (owed : Nat) (hphase : b.phase = .recv (owed + 1)) (hclosed : x.rxClosed = true) :
    SerialTransition x b (serialEnd (.error .transport) b)
  | idles (r : Result) (hphase : b.phase = .done r) : SerialTransition x b (serialIdle b)

/-- The step is one of these moves. -/
theorem serialStep_transition (x : SerialIn) (b : SerialBlock) : SerialTransition x b (serialStep x b) := by
  cases hphase : b.phase with
  | idle =>
    simp only [serialStep, hphase]
    split
    · rename_i op operands hstart
      exact .starts op operands hphase hstart
    · exact .waits (by simp [hphase])
  | check =>
    simp only [serialStep, hphase, serialCheck]
    split
    · rename_i i hop
      split
      · rename_i hfit
        exact .checks i hphase hop hfit
      · rename_i hfit
        exact .refuses i hphase hop (Bool.eq_false_iff.2 hfit)
    · exact .waits (by simp [hphase])
  | hdr k =>
    simp only [serialStep, hphase]
    split_ifs with hfail hready hnext
    · exact .sendFails (by simp [hphase, SerialPhase.sending]) hfail
    · exact .handsHeader k hphase hready hnext
    · exact .handsLastOfHeader k hphase hready hnext
    · exact .waits (by simp [hphase])
  | pay k =>
    simp only [serialStep, hphase]
    split_ifs with hfail hready hnext
    · exact .sendFails (by simp [hphase, SerialPhase.sending]) hfail
    · exact .handsPayload k hphase hready hnext
    · exact .handsLastOfPayload k hphase hready hnext
    · exact .waits (by simp [hphase])
  | wait =>
    simp only [serialStep, hphase]
    split_ifs with hfail hok
    · exact .sendFails (by simp [hphase, SerialPhase.sending]) hfail
    · exact .confirms hphase hok (Bool.eq_false_iff.2 hfail)
    · exact .waits (by simp [hphase])
  | commit =>
    simp only [serialStep, hphase]
    exact .commits hphase
  | recv owed =>
    cases owed with
    | zero =>
      simp only [serialStep, hphase]
      exact .returnsBytes hphase
    | succ owed =>
      simp only [serialStep, hphase]
      split
      · rename_i v hdata
        exact .receives owed v hphase hdata
      · split_ifs with hclosed
        · exact .receiveFails owed hphase hclosed
        · exact .waits (by simp [hphase])
  | done r =>
    simp only [serialStep, hphase]
    exact .idles r hphase

/-! ### The invariant -/

/-- Between the checks and the transport's answer the command stands latched with its checks passed, SEQ is as sampled,
and what was handed over is a first part of the packet. -/
theorem SerialInv.sending {b : SerialBlock} (h : SerialInv b) (hphase : b.phase.sending = true) :
    (∃ i, b.op = some i ∧ i.emitsPacket = true ∧ operandsFit i = true) ∧ b.sampled = b.seq
      ∧ b.handed <+: serialPacket b := by
  cases hp : b.phase with
  | hdr k =>
    simp only [SerialInv, hp] at h
    obtain ⟨hcommand, hsampled, -, hhanded⟩ := h
    exact ⟨hcommand, hsampled, hhanded ▸ List.take_prefix k _⟩
  | pay k =>
    simp only [SerialInv, hp] at h
    obtain ⟨hcommand, hsampled, -, hhanded⟩ := h
    exact ⟨hcommand, hsampled, hhanded ▸ List.take_prefix (10 + k) _⟩
  | wait =>
    simp only [SerialInv, hp] at h
    obtain ⟨hcommand, hsampled, hhanded⟩ := h
    exact ⟨hcommand, hsampled, hhanded ▸ List.prefix_rfl⟩
  | _ => simp [hp, SerialPhase.sending] at hphase

/-- The end of a command, by the three results it may have. -/
theorem serialInv_end_command {b : SerialBlock} {i : Instr} {r : Result} (hop : b.op = some i)
    (hi : i.emitsPacket = true)
    (hend : (r = .ok .nothing ∧ operandsFit i = true ∧ b.handed = serialPacket b ∧ b.seq = b.sampled + 1#14)
      ∨ (r = .error .transport ∧ operandsFit i = true ∧ b.handed <+: serialPacket b ∧ b.seq = b.sampled)
      ∨ (r = .error .encoding ∧ operandsFit i = false ∧ b.handed = [])) :
    SerialInv (serialEnd r b) :=
  ⟨i, hop, fun _ => hend, fun hnot => absurd (hi.symm.trans hnot) Bool.noConfusion, by rintro n rfl; cases hi⟩

/-- The end of a setter or of GET_COUNT, whatever its result: nothing was handed over. -/
theorem serialInv_end_local {b : SerialBlock} {i : Instr} {r : Result} (hop : b.op = some i)
    (hi : i.emitsPacket = false) (hread : ∀ n, i ≠ .readBack n) (hhanded : b.handed = []) :
    SerialInv (serialEnd r b) :=
  ⟨i, hop, fun hemits => absurd (hi.symm.trans hemits) Bool.noConfusion, fun _ => hhanded,
    fun n hn => absurd hn (hread n)⟩

/-- The end of READ_BACK, with all its bytes or with too few of them. -/
theorem serialInv_end_readBack {b : SerialBlock} {n : Nat} {r : Result} (hop : b.op = some (.readBack n))
    (hhanded : b.handed = [])
    (hend : (r = .ok (.bytes b.taken) ∧ b.taken.length = n) ∨ (r = .error .transport ∧ b.taken.length < n)) :
    SerialInv (serialEnd r b) :=
  ⟨.readBack n, hop, nofun, fun _ => hhanded, by rintro m ⟨⟩; exact hend⟩

/-- Every operation of the command port starts with nothing handed over and nothing accumulated. -/
theorem serialInv_serialStart {b : SerialBlock} (hhanded : b.handed = []) (htaken : b.taken = []) (op : HostOp)
    (operands : PortOperands) : SerialInv (serialStart (portInstr op operands) b) := by
  cases op with
  | writeSysReg => exact ⟨⟨_, rfl, rfl⟩, hhanded, htaken⟩
  | readSysReg => exact ⟨⟨_, rfl, rfl⟩, hhanded, htaken⟩
  | writeAsicSpiRegister => exact ⟨⟨_, rfl, rfl⟩, hhanded, htaken⟩
  | readAsicSpiExRegister => exact ⟨⟨_, rfl, rfl⟩, hhanded, htaken⟩
  | readBack =>
    have hcount : b.taken.length + operands.length = operands.length := by simp [htaken]
    exact ⟨⟨operands.length, rfl, hcount⟩, hhanded⟩
  | setSpiFormat =>
    rw [portInstr, serialStart]
    split <;> exact serialInv_end_local rfl rfl (fun _ => Instr.noConfusion) hhanded
  | setAsicId =>
    rw [portInstr, serialStart]
    split <;> exact serialInv_end_local rfl rfl (fun _ => Instr.noConfusion) hhanded
  | setTrace => exact serialInv_end_local rfl rfl (fun _ => Instr.noConfusion) hhanded
  | getCount => exact serialInv_end_local rfl rfl (fun _ => Instr.noConfusion) hhanded

/-- Every move keeps the invariant. -/
theorem SerialTransition.serialInv {x : SerialIn} {b b' : SerialBlock} (ht : SerialTransition x b b')
    (h : SerialInv b) : SerialInv b' := by
  cases ht with
  | waits hphase => exact h
  | starts op operands hphase hstart =>
    simp only [SerialInv, hphase] at h
    obtain ⟨-, hhanded, htaken⟩ := h
    exact serialInv_serialStart hhanded htaken op operands
  | checks i hphase hop hfit =>
    simp only [SerialInv, hphase] at h
    obtain ⟨⟨j, hj, hemits⟩, hhanded, -⟩ := h
    cases hop.symm.trans hj
    exact ⟨⟨i, hop, hemits, hfit⟩, rfl, by decide, hhanded⟩
  | refuses i hphase hop hfit =>
    simp only [SerialInv, hphase] at h
    obtain ⟨⟨j, hj, hemits⟩, hhanded, -⟩ := h
    cases hop.symm.trans hj
    exact serialInv_end_command hop hemits (.inr (.inr ⟨rfl, hfit, hhanded⟩))
  | sendFails hphase hfail =>
    obtain ⟨⟨i, hop, hemits, hfit⟩, hsampled, hhanded⟩ := h.sending hphase
    exact serialInv_end_command hop hemits (.inr (.inl ⟨rfl, hfit, hhanded, hsampled.symm⟩))
  | handsHeader k hphase hready hnext =>
    simp only [SerialInv, hphase] at h
    obtain ⟨⟨i, hop, hemits, hfit⟩, hsampled, -, hhanded⟩ := h
    have hlen := ten_lt_serialPacket_length hop hemits hfit
    exact ⟨⟨i, hop, hemits, hfit⟩, hsampled, hnext,
      (congrArg (· ++ _) hhanded).trans (take_append_serialByte (by omega))⟩
  | handsLastOfHeader k hphase hready hlast =>
    simp only [SerialInv, hphase] at h
    obtain ⟨⟨i, hop, hemits, hfit⟩, hsampled, hk, hhanded⟩ := h
    have hlen := ten_lt_serialPacket_length hop hemits hfit
    obtain rfl : k = 9 := by omega
    exact ⟨⟨i, hop, hemits, hfit⟩, hsampled, hlen,
      (congrArg (· ++ _) hhanded).trans (take_append_serialByte (by omega))⟩
  | handsPayload k hphase hready hnext =>
    simp only [SerialInv, hphase] at h
    obtain ⟨hcommand, hsampled, hk, hhanded⟩ := h
    have hmore : 10 + (k + 1) < (serialPacket b).length := by
      rw [serialPayloadLength] at hnext
      omega
    exact ⟨hcommand, hsampled, hmore, (congrArg (· ++ _) hhanded).trans (take_append_serialByte hk)⟩
  | handsLastOfPayload k hphase hready hlast =>
    simp only [SerialInv, hphase] at h
    obtain ⟨hcommand, hsampled, hk, hhanded⟩ := h
    have hall : (serialPacket b).length ≤ 10 + k + 1 := by
      rw [serialPayloadLength] at hlast
      omega
    exact ⟨hcommand, hsampled,
      (congrArg (· ++ _) hhanded).trans ((take_append_serialByte hk).trans (List.take_of_length_le hall))⟩
  | confirms hphase hok hfail =>
    simp only [SerialInv, hphase] at h
    exact h
  | commits hphase =>
    simp only [SerialInv, hphase] at h
    obtain ⟨⟨i, hop, hemits, hfit⟩, hsampled, hhanded⟩ := h
    exact serialInv_end_command hop hemits (.inl ⟨rfl, hfit, hhanded, congrArg (· + 1#14) hsampled.symm⟩)
  | returnsBytes hphase =>
    simp only [SerialInv, hphase] at h
    obtain ⟨⟨n, hop, htaken⟩, hhanded⟩ := h
    exact serialInv_end_readBack hop hhanded (.inl ⟨rfl, htaken⟩)
  | receives owed v hphase hdata =>
    simp only [SerialInv, hphase] at h
    obtain ⟨⟨n, hop, htaken⟩, hhanded⟩ := h
    exact ⟨⟨n, hop, by simp; omega⟩, hhanded⟩
  | receiveFails owed hphase hclosed =>
    simp only [SerialInv, hphase] at h
    obtain ⟨⟨n, hop, htaken⟩, hhanded⟩ := h
    exact serialInv_end_readBack hop hhanded (.inr ⟨rfl, by omega⟩)
  | idles r hphase => exact ⟨rfl, rfl, rfl⟩

/-- COMMIT is entered by the transport's confirmation in WAIT, and by no other move. -/
theorem SerialTransition.of_commit {x : SerialIn} {b b' : SerialBlock} (ht : SerialTransition x b b')
    (h : b'.phase = .commit) : b.phase = .wait ∧ x.txOk = true ∧ x.txFail = false := by
  cases ht with
  | confirms hphase hok hfail => exact ⟨hphase, hok, hfail⟩
  | waits hphase => exact absurd h hphase
  | starts op operands hphase hstart => exact absurd h (serialStart_phase_ne_commit (by simp [hphase]) _)
  | _ => cases h

/-- Only COMMIT writes SEQ. -/
theorem SerialTransition.seq {x : SerialIn} {b b' : SerialBlock} (ht : SerialTransition x b b') :
    b'.seq = b.seq ∨ (b.phase = .commit ∧ b'.seq = b.seq + 1#14) := by
  cases ht with
  | commits hphase => exact .inr ⟨hphase, rfl⟩
  | starts op operands hphase hstart => exact .inl (serialStart_seq _ b)
  | _ => exact .inl rfl

/-- Settles O51: at IDLE nothing is latched, handed over or accumulated. -/
theorem serialIdleMeetsItsInvariant : Obligations.SerialIdleMeetsItsInvariant := fun _ => ⟨rfl, rfl, rfl⟩

/-- Settles O50, move by move. -/
theorem serialStepKeepsItsInvariant : Obligations.SerialStepKeepsItsInvariant :=
  ⟨fun x b h => (serialStep_transition x b).serialInv h,
    fun x b => ⟨(serialStep_transition x b).of_commit,
      fun hne => (serialStep_transition x b).seq.resolve_left hne⟩⟩

/-! ### One command from its start to DONE -/

/-- The block serves the command `i`, started with the registers of `s`: the operands are latched, the configuration
is as it was, and SEQ is as it was until the command has ended with OK. -/
structure SerialServes (s : State) (i : Instr) (b : SerialBlock) : Prop where
  op : b.op = some i
  asicId : b.asicId = s.asicId
  spiFormat : b.spiFormat = s.spiFormat
  trace : b.trace = s.trace
  seq_of_ok : b.phase = .done (.ok .nothing) → b.seq = s.seq + 1#14
  seq_of_not_ok : b.phase ≠ .done (.ok .nothing) → b.seq = s.seq

/-- With no further start strobe, the block goes on serving the command until it is idle, and then stays so. -/
theorem SerialTransition.serves {x : SerialIn} {b b' : SerialBlock} {s : State} {i : Instr}
    (ht : SerialTransition x b b') (hquiet : x.start = none) (h : b.phase = .idle ∨ SerialServes s i b) :
    b'.phase = .idle ∨ SerialServes s i b' := by
  cases ht with
  | waits hphase => exact h
  | starts op operands hphase hstart => simp [hquiet] at hstart
  | idles r hphase => exact .inl rfl
  | commits hphase =>
    have hserves := h.resolve_left (by simp [hphase])
    have hseq : b.seq = s.seq := hserves.seq_of_not_ok (by simp [hphase])
    exact .inr ⟨hserves.op, hserves.asicId, hserves.spiFormat, hserves.trace, fun _ => congrArg (· + 1#14) hseq,
      fun hne => absurd rfl hne⟩
  | _ =>
    have hphase : b.phase ≠ .idle ∧ b.phase ≠ .done (.ok .nothing) := by
      constructor <;> intro hp <;> simp_all [SerialPhase.sending]
    obtain ⟨hidle, hended⟩ := hphase
    have hserves := h.resolve_left hidle
    exact .inr ⟨hserves.op, hserves.asicId, hserves.spiFormat, hserves.trace, nofun,
      fun _ => hserves.seq_of_not_ok hended⟩

/-- Along the inputs after the start strobe, the block keeps its invariant and goes on serving the command. -/
theorem serialRun_serves {s : State} {i : Instr} {xs : List SerialIn} {b : SerialBlock}
    (hquiet : ∀ y ∈ xs, y.start = none) (hinv : SerialInv b) (h : b.phase = .idle ∨ SerialServes s i b) :
    SerialInv (serialRun xs b) ∧ ((serialRun xs b).phase = .idle ∨ SerialServes s i (serialRun xs b)) := by
  induction xs generalizing b with
  | nil => exact ⟨hinv, h⟩
  | cons x xs ih =>
    obtain ⟨hx, hxs⟩ := List.forall_mem_cons.1 hquiet
    have ht := serialStep_transition x b
    exact ih hxs (ht.serialInv hinv) (ht.serves hx h)

/-- The start strobe with a packet-emitting command at the port of the block at IDLE takes it to CHECK. -/
theorem serialStep_serialOf {x : SerialIn} {op : HostOp} {operands : PortOperands}
    (hi : (portInstr op operands).emitsPacket = true) (hx : x.start = some (op, operands)) (s : State) :
    serialStep x (serialOf s) = { serialOf s with op := some (portInstr op operands), phase := .check } := by
  have hstart : serialStep x (serialOf s) = serialStart (portInstr op operands) (serialOf s) := by
    simp only [serialStep, serialOf, hx]
  exact hstart.trans (serialStart_command hi _)

/-- At CHECK, just started, the block meets its invariant and serves the command. -/
theorem serialInv_serves_check {i : Instr} (hi : i.emitsPacket = true) (s : State) :
    SerialInv { serialOf s with op := some i, phase := .check } ∧
      SerialServes s i { serialOf s with op := some i, phase := .check } :=
  ⟨⟨⟨i, rfl, hi⟩, rfl, rfl⟩, rfl, rfl, rfl, rfl, nofun, fun _ => rfl⟩

/-- What a served command has come to at DONE: the three results, with the packet told from the registers it started
with. -/
theorem SerialServes.ends {s : State} {i : Instr} {b : SerialBlock} {r : Result} (h : SerialServes s i b)
    (hi : i.emitsPacket = true) (hinv : SerialInv b) (hdone : b.phase = .done r) :
    (r = .ok .nothing ∧ i.wellFormed = true ∧ b.handed = encode s.implicit i ∧ b.seq = s.seq + 1#14)
      ∨ (r = .error .transport ∧ i.wellFormed = true ∧ b.handed <+: encode s.implicit i ∧ b.seq = s.seq)
      ∨ (r = .error .encoding ∧ ¬ i.wellFormed = true ∧ b.handed = [] ∧ b.seq = s.seq) := by
  have hpacket (hsampled : b.sampled = s.seq) : serialPacket b = encode s.implicit i := by
    rw [serialPacket_eq_encode h.op, hsampled, h.asicId, h.spiFormat]
    rfl
  simp only [SerialInv, hdone] at hinv
  obtain ⟨j, hj, hcommand, -⟩ := hinv
  cases h.op.symm.trans hj
  rw [← operandsFit_command hi]
  rcases hcommand hi with ⟨rfl, hfit, hhanded, hseq⟩ | ⟨rfl, hfit, hhanded, hseq⟩ | ⟨rfl, hfit, hhanded⟩
  · have hone : b.seq = s.seq + 1#14 := h.seq_of_ok hdone
    have hsampled : b.sampled = s.seq := add_right_cancel (hseq.symm.trans hone)
    exact .inl ⟨rfl, hfit, hhanded.trans (hpacket hsampled), hone⟩
  · have hsame : b.seq = s.seq := h.seq_of_not_ok (by simp [hdone])
    exact .inr (.inl ⟨rfl, hfit, hpacket (hseq.symm.trans hsame) ▸ hhanded, hsame⟩)
  · exact .inr (.inr ⟨rfl, by simp [hfit], hhanded, h.seq_of_not_ok (by simp [hdone])⟩)

/-- Settles O52: at DONE the block still serves the command it started, and each of its three ends is the end of `exec`
under the transport's ok, a failed send, or no answer at all. -/
theorem serialCommandRefinesTheStep : Obligations.SerialCommandRefinesTheStep := by
  intro s es op operands x xs r hpolicy hopened hi hx hquiet hdone
  have hp : refusedUnder s.params.bitLengthPolicy (portInstr op operands) = false := by
    rw [hpolicy, refusedUnder_fixed1]
  rw [serialRun, serialStep_serialOf hi hx s] at hdone ⊢
  obtain ⟨hcheck, hstarted⟩ := serialInv_serves_check hi s
  obtain ⟨hinv, hserves⟩ := serialRun_serves hquiet hcheck (.inr hstarted)
  generalize serialRun xs _ = b at hdone hinv hserves ⊢
  have hserves := hserves.resolve_left (by simp [hdone])
  have hends := hserves.ends hi hinv hdone
  obtain ⟨-, hasic, hspi, htrace, -, -⟩ := hserves
  refine ⟨hasic, hspi, htrace, ?_⟩
  simp only [hasic, hspi, htrace]
  rcases hends with
    ⟨rfl, hw, hhanded, hseq⟩ | ⟨rfl, hw, hhanded, hseq⟩ | ⟨rfl, hw, hhanded, hseq⟩
  · refine .inl ⟨rfl, hhanded, hseq, ?_⟩
    rw [hhanded, hseq]
    exact exec_command_eq_afterSend (s := { s with env := .sendOk :: es }) hi hw hp hopened rfl
  · refine .inr (.inl ⟨rfl, hhanded, hseq, fun k hk hlt => ?_⟩)
    have htake : b.handed.take k = (encode s.implicit (portInstr op operands)).take k := by
      rw [List.prefix_iff_eq_take.1 hhanded, List.take_take, Nat.min_eq_left hk]
    rw [htake, hseq]
    exact exec_command_eq_afterFailedSend (s := { s with env := .sendFail k :: es }) hi hw hp hopened rfl hlt
  · refine .inr (.inr ⟨rfl, hhanded, hseq, ?_⟩)
    rw [exec_command_of_not_wellFormed hi hw, hseq, List.append_nil]
    rfl

end Sys2Proof.Machine
end
